-- ==== Sys2Proof/Word.lean ====
section
/-!
DEFINITION. The word types of the BMSNode protocol core (00_scope.md R9, R11): every wire unit is one byte, a
multi-byte runtime value is 16 bits, and the loop index register is 32 bits.
-/

namespace Sys2Proof

/-- `u8`: one wire unit (R9). -/
abbrev Byte := BitVec 8

/-- `u16`: a runtime value or a bootloader word address (R9). -/
abbrev Word16 := BitVec 16

/-- `u32`: the loop index and window-base registers (10_state.md R41). -/
abbrev Word32 := BitVec 32

end Sys2Proof
end

