-- ==== Sys2Proof/Config.lean ====
section
/-!
DEFINITION. The implementation parameters of 00_scope.md R8, each a field of `Config`, which every state carries and no
step writes (10_state.md R44: "a model takes it as an argument of the step relation"). A parameter that R8 leaves OPEN,
or that 93_implementation_defined.md calls a parameter, takes any value of its type; one to which R8 gives its value has
the type of that value alone (log entry 22). No statement rests on the value of an OPEN field: log entries 5, 11, 12, 14
and 17.
-/

namespace Sys2Proof

/-- A parameter to which R8 gives the value `v`: an argument of the model that can be nothing else (log entry 22). -/
structure Fixed {α : Type} (v : α) where
  deriving DecidableEq, Repr

/-- The value of such a parameter. -/
abbrev Fixed.val {α : Type} {v : α} (_ : Fixed v) : α := v

/-- The width of a parameter, "1|2" bytes (10_state.md R46). -/
inductive ParamWidth where
  | one
  | two
  deriving DecidableEq, Repr

/-- ParameterDescriptor (10_state.md R46): an immutable registry entry. -/
structure ParamDescriptor where
  id : Byte
  width : ParamWidth
  name : String
  deriving DecidableEq, Repr

/-- The five shunt states of GET_STATUS, in the source's listing order (43_command_protocol.md R252). -/
inductive ShuntState where
  | off
  | idle
  | on
  | undervolt
  | overtemp
  deriving DecidableEq, Repr

/-- `STK_CODES` (30_encoding.md R107), with the two byte orders that 20_memory.md R73 makes part of it. The three bytes
that the source gives (R8, R106) have their one value. PRESUMED: the default values of the others are the STK500
family's, as the spec itself says ("from general knowledge, not in source"; log entry 12). -/
structure StkCodes where
  getSync : Byte := 0x30
  getParameter : Byte := 0x41
  loadAddress : Byte := 0x55
  progPage : Byte := 0x64
  readPage : Byte := 0x74
  swMajor : Byte := 0x81
  swMinor : Byte := 0x82
  memtypeFlash : Byte := 0x46
  /-- R73: the word address is sent low byte first. -/
  addressLowFirst : Bool := true
  /-- R73: the block length is sent high byte first. -/
  lengthHighFirst : Bool := true
  /-- `STK_EOP`, the request terminator (R8, R106). -/
  eop : Fixed (0x20 : Byte) := {}
  /-- `STK_INSYNC`, the first reply byte (R8, R106). -/
  insync : Fixed (0x14 : Byte) := {}
  /-- `STK_OK`, the last reply byte (R8, R106). -/
  ok : Fixed (0x10 : Byte) := {}
  deriving DecidableEq, Repr

/-- The parameter set (00_scope.md R8), "fixed for the life of the block" (10_state.md R44). -/
structure Config where
  /-- `CRC_POLY`: the CRC-8 polynomial, low 8 bits (R150). -/
  crcPoly : Fixed (0x07 : Byte) := {}
  /-- `CRC_INIT`: the CRC accumulator's start value (R150). -/
  crcInit : Fixed (0x00 : Byte) := {}
  /-- `PREAMBLE_BYTE` (R100). -/
  preambleByte : Fixed (0x55 : Byte) := {}
  /-- `PREAMBLE_COUNT`: the preamble bytes the encoder sends (R102). -/
  preambleCount : Fixed (4 : Nat) := {}
  /-- `SYNC_BYTE` (R100). -/
  syncByte : Fixed (0xF0 : Byte) := {}
  /-- `REPLY_FLAG`: the mask of the reply bit in the flags byte (R101). -/
  replyFlagMask : Fixed (0x80 : Byte) := {}
  /-- `MAX_PAYLOAD`: the largest payload, which is the size of `rx_pay` (R36; 90_conflicts.md C6). -/
  maxPayload : Fixed (255 : Nat) := {}
  /-- `BL_BLOCK`: the bootloader block size in bytes, which is the size of `bl_data` (R39) and of format HD (R121). -/
  blBlock : Fixed (16 : Nat) := {}
  /-- `CRC_ENDS_WAIT`: whether a CRC-discarded frame ends a reply wait (R233). -/
  crcEndsWait : Bool
  /-- `DISCOVER_MAX`: the largest discovery end address (R290). -/
  discoverMax : Byte
  /-- `REGISTRY`: the ordered parameter descriptors (R46, R253). -/
  registry : List ParamDescriptor
  /-- `BOARD_TYPES`: board-type names, indexed from 0 (R251). -/
  boardTypes : List String
  /-- `SHUNT_STATES`: the map from shunt-state byte to state (R252). -/
  shuntStates : List (Byte × ShuntState)
  /-- `SYNC_ATTEMPTS`: the number of GET_SYNC attempts (R320; U18 calls it a parameter, value 5). -/
  syncAttempts : Nat
  /-- `BOOT_BOUNDARY`: the first byte address of the boot-loader reservation, any 32-bit address (R79, R402; log
  entry 11). -/
  bootBoundary : Word32
  /-- `STK_CODES` (R107, R73). -/
  stk : StkCodes
  /-- `T_NORMAL`, `T_WRITE`, `T_DISCOVER`: opaque durations the transport applies (R8, R381; log entry 14). -/
  tNormal : Nat
  tWrite : Nat
  tDiscover : Nat
  /-- `T_MONITOR`: the opaque interval between monitor rounds (R8, R300; log entry 14). -/
  tMonitor : Nat
  deriving DecidableEq, Repr

/-- The start-up requirements the integrator must settle (70_reset_and_hazards.md R402, R8): distinct registry ids,
`BOOT_BOUNDARY` a multiple of 16 at most 0x20000, `DISCOVER_MAX` in 1..255, `T_WRITE` longer than `T_NORMAL`. The
block checks none of them. -/
def Config.meetsStartup (c : Config) : Bool :=
  decide ((c.registry.map ParamDescriptor.id).Nodup) && c.bootBoundary.toNat % 16 == 0 &&
    decide (c.bootBoundary.toNat ≤ 0x20000) && c.discoverMax != 0 && decide (c.tNormal < c.tWrite)

/-- The default `SHUNT_STATES` of R252: the listing order. -/
def defaultShuntStates : List (Byte × ShuntState) :=
  [(0x00, .off), (0x01, .idle), (0x02, .on), (0x03, .undervolt), (0x04, .overtemp)]

/-- DESIGN CHOICE (log entry 5): the parameters of the state after reset. Where R8, R107 or R252 gives a default, that
default; where the spec leaves the parameter OPEN, the fixture of 95_test_vectors.md ("fixtures, not source data"). -/
def Config.fixture : Config where
  crcEndsWait := true
  discoverMax := 16
  registry := [⟨1, .one, "P1"⟩, ⟨2, .two, "P2"⟩]
  boardTypes := ["T0", "T1"]
  shuntStates := defaultShuntStates
  syncAttempts := 5
  bootBoundary := 0x0200
  stk := {}
  tNormal := 2
  tWrite := 3
  tDiscover := 1
  tMonitor := 1

end Sys2Proof
end

