-- ==== Sys2Proof/Syntax.lean ====
section
/-!
DEFINITION. The host operations of 30_encoding.md R120, one constructor per row of spec/opcode_table.json, with the
operands of the formats of R121.
-/

namespace Sys2Proof

/-- A host operation with its operands (30_encoding.md R120, R121). Opcodes outside the table are no instruction: they
are taken as `BAD_OP` (R122, `Decoded.illegal`). -/
inductive Instr where
  /-- `CRC_CLR` (0x00, H0; 40_crc8.md R153). -/
  | crcClr
  /-- `CRC_UPD b` (0x01, HB; R154). -/
  | crcUpd (b : Byte)
  /-- `FRAME_TX` (0x03, HF; 41_frame_encoder.md R172): flags operand, address, command, payload. -/
  | frameTx (f a c : Byte) (payload : List Byte)
  /-- `FRAME_RX` (0x04, H0; 42_frame_decoder.md R204). -/
  | frameRx
  /-- `PING a` (0x11, HA; 43_command_protocol.md R240). -/
  | ping (a : Byte)
  /-- `ENTER_DFU a` (0x12, HA; R241). -/
  | enterDfu (a : Byte)
  /-- `GET_IDENTITY a` (0x13, HA; R242). -/
  | getIdentity (a : Byte)
  /-- `SET_ADDRESS a, text` (0x14, HAT; R243). -/
  | setAddress (a : Byte) (text : List Byte)
  /-- `GET_ADC_RAW a` (0x15, HA; R244). -/
  | getAdcRaw (a : Byte)
  /-- `GET_STATUS a` (0x16, HA; R245). -/
  | getStatus (a : Byte)
  /-- `SHUNT_ON a` (0x17, HA; R246). -/
  | shuntOn (a : Byte)
  /-- `SHUNT_OFF a` (0x18, HA; R247). -/
  | shuntOff (a : Byte)
  /-- `SET_PARAMETER a, id, v` (0x19, HAPV; R248). -/
  | setParameter (a id : Byte) (v : Word16)
  /-- `GET_PARAMETER a, id` (0x1A, HAP; R249). -/
  | getParameter (a id : Byte)
  /-- `DISCOVER n` (0x20, HN; 44_session_sequences.md R290). -/
  | discover (n : Byte)
  /-- `GET_ALL_PARAMETERS a` (0x21, HA; R295). -/
  | getAllParameters (a : Byte)
  /-- `MONITOR n` (0x22, HN; R300). -/
  | monitor (n : Byte)
  /-- `BL_SYNC` (0x30, H0; 45_bootloader.md R320). -/
  | blSync
  /-- `BL_GET_VERSION` (0x31, H0; R321). -/
  | blGetVersion
  /-- `BL_LOAD_ADDRESS addr` (0x32, HW; R322): a 24-bit byte address. -/
  | blLoadAddress (addr : BitVec 24)
  /-- `BL_WRITE_BLOCK d` (0x33, HD; R324). -/
  | blWriteBlock (d : Vector Byte 16)
  /-- `BL_READ_BLOCK` (0x34, H0; R325). -/
  | blReadBlock
  /-- `BL_PROGRAM` (0x35, H0; R327). -/
  | blProgram
  /-- `BL_VERIFY` (0x36, H0; R328). -/
  | blVerify
  deriving DecidableEq, Repr

end Sys2Proof
end

