-- ==== Sys2Proof/WellFormed.lean ====
section
/-!
DEFINITION. Which terms of `Instr` have an encoding (30_encoding.md R121): the payload length of format HF and the text
length of format HAT are one byte each. Every other operand's width is in its type.
-/

namespace Sys2Proof

/-- `i` has an encoding: its variable-length operand fits the one-byte length field of its format (R121, R173). -/
def WellFormed : Instr → Bool
  | .frameTx _ _ _ p => decide (p.length ≤ 255)
  | .setAddress _ t => decide (t.length ≤ 255)
  | .crcClr => true
  | .crcUpd _ => true
  | .frameRx => true
  | .ping _ => true
  | .enterDfu _ => true
  | .getIdentity _ => true
  | .getAdcRaw _ => true
  | .getStatus _ => true
  | .shuntOn _ => true
  | .shuntOff _ => true
  | .setParameter _ _ _ => true
  | .getParameter _ _ => true
  | .discover _ => true
  | .getAllParameters _ => true
  | .monitor _ => true
  | .blSync => true
  | .blGetVersion => true
  | .blLoadAddress _ => true
  | .blWriteBlock _ => true
  | .blReadBlock => true
  | .blProgram => true
  | .blVerify => true

end Sys2Proof
end

