-- ==== Sys2Proof/Decode.lean ====
section
/-!
DEFINITION. The host-port encoding (30_encoding.md R120 to R122): the decoder, total on any bytes, and after it the
encoder. Also the byte-order helpers both share with the machine (00_scope.md R11).
-/

namespace Sys2Proof

/-! ## Byte order (R11, R72, R121) -/

/-- `le16(lo, hi) = lo OR (hi << 8)` (00_scope.md R11). -/
def le16 (lo hi : Byte) : Word16 := hi ++ lo

/-- `v[7:0]` of a 16-bit value. -/
def lo8 (v : Word16) : Byte := v.extractLsb' 0 8

/-- `v[15:8]` of a 16-bit value. -/
def hi8 (v : Word16) : Byte := v.extractLsb' 8 8

/-- The 24-bit operand of format HW, `a0 OR (a1 << 8) OR (a2 << 16)` (R121). -/
def le24 (a0 a1 a2 : Byte) : BitVec 24 := a2 ++ (a1 ++ a0)

/-- Byte `k` of a 24-bit value. -/
def byte24 (v : BitVec 24) (k : Nat) : Byte := v.extractLsb' (8 * k) 8

/-- The first 16 bytes of a sequence, as a block. -/
def block16 (bs : List Byte) : Vector Byte 16 := Vector.ofFn fun i => bs.getD i 0

/-- The `k` bytes of `w`, least significant first: how spec/opcode_table.json numbers an operation's bits. -/
def leBytes : Nat → Nat → List Byte
  | 0, _ => []
  | k + 1, w => BitVec.ofNat 8 w :: leBytes k (w / 256)

/-! ## The decoder -/

/-- What the block finds at the head of the bytes offered on `HOST_IN`. -/
inductive Decoded where
  /-- an operation of R120, and the bytes after it -/
  | instr (i : Instr) (rest : List Byte)
  /-- an opcode that R122 calls illegal, and the bytes after it -/
  | illegal (opcode : Byte) (rest : List Byte)
  /-- not all bytes of an operation are there yet (log entry 1) -/
  | incomplete
  deriving DecidableEq, Repr

/-- Format HB, HA or HN: one operand byte. -/
def decode1 (f : Byte → Instr) : List Byte → Decoded
  | b :: r => .instr (f b) r
  | [] => .incomplete

/-- Format HAP: two operand bytes. -/
def decode2 (f : Byte → Byte → Instr) : List Byte → Decoded
  | a :: b :: r => .instr (f a b) r
  | _ => .incomplete

/-- Format HAPV: address, id, `v = le16(vlo, vhi)`. -/
def decodeHAPV (f : Byte → Byte → Word16 → Instr) : List Byte → Decoded
  | a :: b :: lo :: hi :: r => .instr (f a b (le16 lo hi)) r
  | _ => .incomplete

/-- Format HAT: address, text length `k`, `k` text bytes. -/
def decodeHAT (f : Byte → List Byte → Instr) : List Byte → Decoded
  | a :: k :: r =>
    if k.toNat ≤ r.length then .instr (f a (r.take k.toNat)) (r.drop k.toNat) else .incomplete
  | _ => .incomplete

/-- Format HF: flags, address, command, payload length `L`, `L` payload bytes. -/
def decodeHF (f : Byte → Byte → Byte → List Byte → Instr) : List Byte → Decoded
  | g :: a :: c :: l :: r =>
    if l.toNat ≤ r.length then .instr (f g a c (r.take l.toNat)) (r.drop l.toNat) else .incomplete
  | _ => .incomplete

/-- Format HW: three address bytes, little-endian. -/
def decodeHW (f : BitVec 24 → Instr) : List Byte → Decoded
  | a0 :: a1 :: a2 :: r => .instr (f (le24 a0 a1 a2)) r
  | _ => .incomplete

/-- Format HD: 16 data bytes. -/
def decodeHD (f : Vector Byte 16 → Instr) (r : List Byte) : Decoded :=
  if 16 ≤ r.length then .instr (f (block16 r)) (r.drop 16) else .incomplete

/-- The opcode table of R120, and R122 for every other opcode. -/
def decodeOp (op : Byte) (r : List Byte) : Decoded :=
  match op.toNat with
  | 0x00 => .instr .crcClr r
  | 0x01 => decode1 .crcUpd r
  | 0x03 => decodeHF .frameTx r
  | 0x04 => .instr .frameRx r
  | 0x11 => decode1 .ping r
  | 0x12 => decode1 .enterDfu r
  | 0x13 => decode1 .getIdentity r
  | 0x14 => decodeHAT .setAddress r
  | 0x15 => decode1 .getAdcRaw r
  | 0x16 => decode1 .getStatus r
  | 0x17 => decode1 .shuntOn r
  | 0x18 => decode1 .shuntOff r
  | 0x19 => decodeHAPV .setParameter r
  | 0x1A => decode2 .getParameter r
  | 0x20 => decode1 .discover r
  | 0x21 => decode1 .getAllParameters r
  | 0x22 => decode1 .monitor r
  | 0x30 => .instr .blSync r
  | 0x31 => .instr .blGetVersion r
  | 0x32 => decodeHW .blLoadAddress r
  | 0x33 => decodeHD .blWriteBlock r
  | 0x34 => .instr .blReadBlock r
  | 0x35 => .instr .blProgram r
  | 0x36 => .instr .blVerify r
  | _ => .illegal op r

/-- The operation at the head of the bytes offered on `HOST_IN` (R120 to R122). -/
def decode : List Byte → Decoded
  | [] => .incomplete
  | op :: r => decodeOp op r

/-- The longest operation: FRAME_TX with 255 payload bytes (R121). -/
def longestInstr : Nat := 260

/-- The bytes of an operation whose bits, numbered as spec/opcode_table.json numbers them, are the low `nbits` bits of
`w`; every bit above is 0. -/
def tableBytes (nbits w : Nat) : List Byte := leBytes longestInstr (w % 2 ^ nbits)

/-- The operation the decoder reads from an operation whose bits are `w` (spec/opcode_table.json's numbering). -/
def decodeTableWord (nbits w : Nat) : Option Instr :=
  match decode (tableBytes nbits w) with
  | .instr i _ => some i
  | .illegal _ _ => none
  | .incomplete => none

/-! ## The encoder -/

/-- The opcode byte of R120. -/
def opcodeOf : Instr → Byte
  | .crcClr => 0x00
  | .crcUpd _ => 0x01
  | .frameTx _ _ _ _ => 0x03
  | .frameRx => 0x04
  | .ping _ => 0x11
  | .enterDfu _ => 0x12
  | .getIdentity _ => 0x13
  | .setAddress _ _ => 0x14
  | .getAdcRaw _ => 0x15
  | .getStatus _ => 0x16
  | .shuntOn _ => 0x17
  | .shuntOff _ => 0x18
  | .setParameter _ _ _ => 0x19
  | .getParameter _ _ => 0x1A
  | .discover _ => 0x20
  | .getAllParameters _ => 0x21
  | .monitor _ => 0x22
  | .blSync => 0x30
  | .blGetVersion => 0x31
  | .blLoadAddress _ => 0x32
  | .blWriteBlock _ => 0x33
  | .blReadBlock => 0x34
  | .blProgram => 0x35
  | .blVerify => 0x36

/-- The operand bytes of R121. A length that does not fit its byte (an ill-formed term) is truncated. -/
def operandBytes : Instr → List Byte
  | .crcClr => []
  | .crcUpd b => [b]
  | .frameTx f a c p => f :: a :: c :: BitVec.ofNat 8 p.length :: p
  | .frameRx => []
  | .ping a => [a]
  | .enterDfu a => [a]
  | .getIdentity a => [a]
  | .setAddress a t => a :: BitVec.ofNat 8 t.length :: t
  | .getAdcRaw a => [a]
  | .getStatus a => [a]
  | .shuntOn a => [a]
  | .shuntOff a => [a]
  | .setParameter a id v => [a, id, lo8 v, hi8 v]
  | .getParameter a id => [a, id]
  | .discover n => [n]
  | .getAllParameters a => [a]
  | .monitor n => [n]
  | .blSync => []
  | .blGetVersion => []
  | .blLoadAddress addr => [byte24 addr 0, byte24 addr 1, byte24 addr 2]
  | .blWriteBlock d => d.toList
  | .blReadBlock => []
  | .blProgram => []
  | .blVerify => []

/-- The bytes of a host operation: its opcode, then its operands (R120, R121). -/
def encode (i : Instr) : List Byte := opcodeOf i :: operandBytes i

/-- The bytes that the operation of `w` occupies: as many of `tableBytes nbits w` as its encoding has. -/
def tableOperation (nbits w : Nat) : List Byte :=
  match decode (tableBytes nbits w) with
  | .instr i _ => (tableBytes nbits w).take (encode i).length
  | .illegal op _ => [op]
  | .incomplete => tableBytes nbits w

end Sys2Proof
end

