-- ==== Sys2Proof/Machine/State.lean ====
section
/-!
DEFINITION. The state of the BMSNode protocol core: every register of 10_state.md R34 to R41, the ports of R30 as plain
data, and the parameter set of 00_scope.md R8; the records carried on the ports; the state after reset.
-/

namespace Sys2Proof.Machine

/-! ## Data carried on the ports (10_state.md section 5) -/

/-- Packet (R45). -/
structure Packet where
  address : Byte
  command : Byte
  isReply : Bool
  payload : List Byte
  deriving DecidableEq, Repr

/-- One event of `RX` (R30, R32): a byte, or a read that timed out. -/
inductive RxEvent where
  | byte (b : Byte)
  | tmo
  deriving DecidableEq, Repr

/-- Why a decode attempt ended with "no packet" (42_frame_decoder.md R190). -/
inductive NpReason where
  | timeout
  | short
  | framing
  | crc
  deriving DecidableEq, Repr

/-- The output of one decoder step (R190). -/
inductive DecOut where
  | none
  | pkt (p : Packet)
  | np (r : NpReason)
  deriving DecidableEq, Repr

/-- Result codes (60_exceptions.md R370). -/
inductive ResultCode where
  | ok
  | noResponse
  | noPacket
  | badInput
  | badReply
  | paramMismatch
  | syncFailed
  | blBadAck
  | verifyMismatch
  | badOp
  deriving DecidableEq, Repr

/-- What `BoardType(x)` returns (43_command_protocol.md R251). -/
inductive BoardKind where
  | known (name : String)
  | unknown (x : Byte)
  deriving DecidableEq, Repr

/-- What `ShuntState(x)` returns (R252). -/
inductive ShuntReport where
  | known (st : ShuntState)
  | unknown (x : Byte)
  deriving DecidableEq, Repr

/-- DeviceRecord (R47); the version is (major, minor, patch) (R242). -/
structure DeviceRecord where
  address : Byte
  uid : Vector Byte 4
  boardType : BoardKind
  versionMajor : Byte
  versionMinor : Byte
  versionPatch : Byte
  deriving DecidableEq, Repr

/-- The data of a GET_STATUS reply (R245): unsigned millivolts, signed unscaled degrees, shunt state. -/
structure StatusReading where
  mV : Word16
  degC : Int
  shunt : ShuntReport
  deriving DecidableEq, Repr

/-- The outcome of one GET_STATUS exchange, reported per node by MONITOR (44_session_sequences.md R300). -/
inductive StatusOutcome where
  | reading (r : StatusReading)
  | badReply (payload : List Byte)
  | noResponse
  deriving DecidableEq, Repr

/-- The outcome of one entry of GET_ALL_PARAMETERS (R295). -/
inductive ParamOutcome where
  | value (v : Word16)
  | mismatch (payload : List Byte)
  | noResponse
  deriving DecidableEq, Repr

/-- One record of `seq_results` (R41, R295). -/
structure ParamRecord where
  id : Byte
  name : String
  outcome : ParamOutcome
  deriving DecidableEq, Repr

/-- The two version exchanges of BL_GET_VERSION (45_bootloader.md R321). -/
inductive VersionPart where
  | minor
  | major
  deriving DecidableEq, Repr

/-- The data of a `Result` (R370, "per rule"; log entry 16). -/
inductive ResultData where
  /-- an address, a parameter id, the accumulator, an opcode, or a one-byte operand -/
  | byte (b : Byte)
  /-- a word address (R322) or a refused 16-bit value (R248) -/
  | word (w : Word16)
  /-- a refused byte address (R322) -/
  | addr24 (a : BitVec 24)
  /-- a number of bytes, attempts or windows -/
  | count (n : Nat)
  /-- a payload, a text, or the bytes read -/
  | bytes (bs : List Byte)
  /-- the 16 bytes of a block (R325) -/
  | block (d : Vector Byte 16)
  | packet (p : Packet)
  | reason (r : NpReason)
  | device (d : DeviceRecord)
  /-- `(a, uid)` of SET_ADDRESS (R243) -/
  | bound (a : Byte) (uid : Vector Byte 4)
  | adc (cell thermistor sensor : Word16)
  | status (r : StatusReading)
  /-- `(id, v)` of SET_PARAMETER and GET_PARAMETER -/
  | param (id : Byte) (v : Word16)
  | addresses (l : List Byte)
  | params (l : List ParamRecord)
  | version (major minor : Byte)
  /-- a malformed version reply: which exchange (R321), and the bytes read (R370; log entry 23) -/
  | badVersion (which : VersionPart) (read : List Byte)
  /-- a window base (R327) -/
  | windowBase (b : Word32)
  | windows (l : List Word32)
  deriving DecidableEq, Repr

/-- One record put on `HOST_OUT` (R30): the final result of an operation, or MONITOR's per-poll record. -/
inductive HostRecord where
  | result (code : ResultCode) (data : ResultData)
  | monitor (a : Byte) (outcome : StatusOutcome)
  deriving DecidableEq, Repr

/-- `tmo_sel` (R38): the read-timeout setting the transport must apply. -/
inductive TimeoutSel where
  | normal
  | write
  | discover
  deriving DecidableEq, Repr

/-- One thing the block did at a port (R30). -/
inductive PortEvent where
  /-- `TxWrite(b)` -/
  | tx (b : Byte)
  /-- `RxRead()` took this event -/
  | rx (e : RxEvent)
  /-- `SetTimeout(sel)` -/
  | tmoSel (sel : TimeoutSel)
  /-- `Stop()` sampled this level -/
  | stop (level : Bool)
  /-- `HostOut(rec)` -/
  | out (r : HostRecord)
  deriving DecidableEq, Repr

/-! ## Registers that hold a state of a unit -/

/-- `rx_state` (R35). -/
inductive RxState where
  | seekPreamble
  | seekSync
  | readHeader
  | readPayload
  | readCrc
  deriving DecidableEq, Repr

/-- What the running operation does when `WaitReply()` returns (43_command_protocol.md R231): the position behind the
call, with the operation's local variables. -/
inductive ReplyPos where
  | ping (a : Byte)
  | getIdentity (a : Byte)
  | setAddress (a : Byte) (uid : Vector Byte 4)
  | getAdcRaw (a : Byte)
  | getStatus (a : Byte)
  | shuntOn (a : Byte)
  | shuntOff (a : Byte)
  | setParameter (a id : Byte) (v : Word16) (pl : List Byte)
  | getParameter (a id : Byte) (w : ParamWidth)
  /-- the scan of DISCOVER, at the address in `seq_idx` -/
  | discover (n : Byte)
  /-- GET_ALL_PARAMETERS, at the registry entry whose index is in `seq_idx` -/
  | getAll (a : Byte) (entry : ParamDescriptor)
  /-- the scan of MONITOR, at the address in `seq_idx` -/
  | monitorScan (n : Byte)
  /-- a polling round of MONITOR: the node polled now, and those still to poll in this round -/
  | monitorPoll (a : Byte) (rest : List Byte)
  deriving DecidableEq, Repr

/-- What the running operation does when `RxReadN(n)` returns (45_bootloader.md). -/
inductive ReadPos where
  | sync
  | versionMinor
  | versionMajor (minor : Byte)
  | loadAddress (w : Word16)
  | writeBlock
  | readBlock
  /-- BL_PROGRAM, at the window whose base is in `seq_idx`: its LOAD_ADDRESS, then its PROG_PAGE -/
  | programLoad (win : Vector Byte 16) (count : Nat)
  | programWrite (count : Nat)
  /-- BL_VERIFY, at the window whose base is in `seq_idx`: its LOAD_ADDRESS, then its READ_PAGE -/
  | verifyLoad (win : Vector Byte 16)
  | verifyRead (win : Vector Byte 16)
  deriving DecidableEq, Repr

/-- A pass that begins again at window base 0 (log entry 11). -/
inductive PassPos where
  /-- BL_PROGRAM, with the number of windows written -/
  | program (count : Nat)
  | verify
  deriving DecidableEq, Repr

/-- The position inside the running operation ("the position in its pseudocode is internal", R40; log entry 19): the
point at which it waits for its environment. -/
inductive Pos where
  /-- in the `DecodeAttempt()` of FRAME_RX (R204) -/
  | frameRx
  /-- in `WaitReply()` -/
  | reply (k : ReplyPos)
  /-- in `RxReadN(want)`, with the bytes taken so far -/
  | readN (want : Nat) (got : List Byte) (k : ReadPos)
  /-- in MONITOR between two rounds, while "the environment lets T_MONITOR pass" (R300) -/
  | monitorPause
  /-- in a pass whose `seq_idx` went past the last 32-bit window base and is 0 again (log entry 11) -/
  | passAgain (k : PassPos)
  deriving DecidableEq, Repr

/-- `op_state` (R40): IDLE or BUSY. The opcode of BUSY is `Pos.opcode`, computed from the position. -/
inductive OpState where
  | idle
  | busy (pos : Pos)
  deriving DecidableEq, Repr

/-- The firmware image (20_memory.md R76): (address, byte) pairs; an address that is not listed is ABSENT. -/
abbrev Memory := List Host.Cell

/-! ## The state -/

/-- The state of the block and of its ports. -/
structure State where
  /-- The parameter set of 00_scope.md R8, fixed for the life of the block (R44). -/
  cfg : Config
  /-- `crc_acc` (R34). -/
  crcAcc : Byte
  /-- `rx_state` (R35). -/
  rxState : RxState
  /-- `rx_hdr[0..3]` (R36): flags, address, command, length. -/
  rxHdr : Vector Byte 4
  /-- `rx_hcnt`, 0..4 (R36). -/
  rxHcnt : Nat
  /-- `rx_pay[0..254]` (R36). -/
  rxPay : Vector Byte 255
  /-- `rx_pcnt`, 0..255 (R36). -/
  rxPcnt : Nat
  /-- `rx_crc` (R36). -/
  rxCrc : Byte
  /-- `ses_addr` (R37). -/
  sesAddr : Byte
  /-- `ses_cmd` (R37). -/
  sesCmd : Byte
  /-- `ses_req` (R37). -/
  sesReq : List Byte
  /-- `tmo_sel` (R38), which drives the port `TMO_SEL`. -/
  tmoSel : TimeoutSel
  /-- `bl_cursor` (R39). -/
  blCursor : Word16
  /-- `bl_cursor_valid` (R39). -/
  blCursorValid : Bool
  /-- `bl_data[0..15]` (R39). -/
  blData : Vector Byte 16
  /-- `bl_retry`, 0..SYNC_ATTEMPTS (R39). -/
  blRetry : Nat
  /-- `op_state` (R40). -/
  opState : OpState
  /-- `seq_idx` (R41). -/
  seqIdx : Word32
  /-- `seq_present` (R41). -/
  seqPresent : List Byte
  /-- `seq_results` (R41). -/
  seqResults : List ParamRecord
  /-- `seq_mismatch` (R41). -/
  seqMismatch : List Word32
  /-- `HOST_IN` (R30): the bytes the host offers and the block has not taken (log entry 1). -/
  hostIn : List Byte
  /-- `RX` (R30, R32): the environment's answers to the successive `RxRead()` calls (log entry 2). -/
  rx : List RxEvent
  /-- `STOP` (R30): the level now. -/
  stop : Bool
  /-- The levels `STOP` will have at the next samples; after them it stays as it is (log entry 4). -/
  stopNext : List Bool
  /-- `IMAGE` (R30, R76): the firmware image behind the read port (log entry 7). -/
  image : Memory
  /-- The model's own field: what the block did at its ports so far, in order (R82; log entry 15). -/
  portLog : List PortEvent
  deriving DecidableEq, Repr

/-! ## Reset (70_reset_and_hazards.md R400, R401; 10_state.md R50) -/

/-- The reset event (R400): every register takes its reset value of R50; nothing is written to `TX` or read from `RX`,
and the environment and the parameters stay (R401). DESIGN CHOICE: `rx_hdr` and `rx_pay`, "unspecified (never read
before written)" in R50, become zeros (log entry 6). -/
def State.afterReset (s : State) : State :=
  { s with
    crcAcc := 0x00
    rxState := .seekPreamble
    rxHdr := Vector.replicate 4 0x00
    rxHcnt := 0
    rxPay := Vector.replicate 255 0x00
    rxPcnt := 0
    rxCrc := 0x00
    sesAddr := 0x00
    sesCmd := 0x00
    sesReq := []
    tmoSel := .normal
    blCursor := 0x0000
    blCursorValid := false
    blData := Vector.replicate 16 0xFF
    blRetry := 0
    opState := .idle
    seqIdx := 0
    seqPresent := []
    seqResults := []
    seqMismatch := [] }

/-- The machine right after reset (R400, R50). DESIGN CHOICE: the parameters are `Config.fixture` (log entry 5); the
environment offers no operation, no event and no image, and `STOP` is low (log entries 7 and 8). -/
def State.reset : State where
  cfg := Config.fixture
  crcAcc := 0x00
  rxState := .seekPreamble
  rxHdr := Vector.replicate 4 0x00
  rxHcnt := 0
  rxPay := Vector.replicate 255 0x00
  rxPcnt := 0
  rxCrc := 0x00
  sesAddr := 0x00
  sesCmd := 0x00
  sesReq := []
  tmoSel := .normal
  blCursor := 0x0000
  blCursorValid := false
  blData := Vector.replicate 16 0xFF
  blRetry := 0
  opState := .idle
  seqIdx := 0
  seqPresent := []
  seqResults := []
  seqMismatch := []
  hostIn := []
  rx := []
  stop := false
  stopNext := []
  image := []
  portLog := []

/-! ## The reasons a step can stop -/

/-- Faults. There is none: "The block has no traps, no exception vectors and no interrupts" (60_exceptions.md); an
error is a next state with its result record. No step raises one, which is safe. -/
inductive Fault where
  deriving DecidableEq, Repr

/-- Refusals. -/
inductive Refusal where
  /-- An arm of `exec` whose instruction has no meaning yet raises it (none does); safe, since it claims no state. -/
  | notModelled (mnemonic : String)
  deriving DecidableEq, Repr

end Sys2Proof.Machine
end

