-- ==== Sys2Proof/Machine/Flags.lean ====
section
/-!
DEFINITION. The one flag of the hardware, the reply flag in the flags byte of a frame (10_state.md R42, R43;
30_encoding.md R101). There are no condition codes.
-/

namespace Sys2Proof.Machine

/-- The flags byte the encoder writes: bit 7 from `isReply`, bits 6..0 zero (R101, R123, R170). -/
def flagsByte (c : Config) (isReply : Bool) : Byte := if isReply then c.replyFlagMask.val else 0x00

/-- `isReply = (flags AND 0x80) != 0` (R101, R196). -/
def replyFlag (c : Config) (flags : Byte) : Bool := (flags &&& c.replyFlagMask.val) != 0

/-- `f[6:0]`, the reserved bits (R101). -/
def reservedFlags (flags : Byte) : BitVec 7 := flags.extractLsb' 0 7

end Sys2Proof.Machine
end

