-- ==== Sys2Proof/Machine/Operands.lean ====
section
/-!
DEFINITION. Operand checks and conversions: the helper functions of 43_command_protocol.md R250 to R253, the values of
the reply payloads (R242, R244, R245, R249), the byte order of parameter values (20_memory.md R72), the bootloader
address (45_bootloader.md R322), and the fields of the bootloader requests (30_encoding.md R108).
-/

namespace Sys2Proof.Machine

/-! ## Values (20_memory.md R72, 30_encoding.md R123) -/

/-- The number of bytes of a width. -/
def widthBytes : ParamWidth → Nat
  | .one => 1
  | .two => 2

/-- `LE(v, w)` (R248): `[v[7:0]]`, or `[v[7:0], v[15:8]]`. -/
def leValue (v : Word16) : ParamWidth → List Byte
  | .one => [lo8 v]
  | .two => [lo8 v, hi8 v]

/-- Whether `v` fits the width: "w = 1 and v > 0xFF" is refused (R248). -/
def fitsWidth (v : Word16) : ParamWidth → Bool
  | .one => decide (v.toNat ≤ 0xFF)
  | .two => true

/-- `sext_16(v)` (00_scope.md R11). -/
def sext16 (v : Word16) : Int :=
  if v.getLsbD 15 then (v.toNat : Int) - 0x10000 else (v.toNat : Int)

/-! ## UID text (R250) -/

/-- The value of an ASCII hexadecimal digit of either case (R250). -/
def hexDigit (c : Byte) : Option Byte :=
  if 0x30 ≤ c.toNat ∧ c.toNat ≤ 0x39 then some (c - 0x30)
  else if 0x41 ≤ c.toNat ∧ c.toNat ≤ 0x46 then some (c - 0x37)
  else if 0x61 ≤ c.toNat ∧ c.toNat ≤ 0x66 then some (c - 0x57)
  else none

/-- `hex(t[j])*16 + hex(t[j+1])` for two hexadecimal digits (R250). -/
def hexPair (h l : Byte) : Option Byte :=
  match hexDigit h, hexDigit l with
  | some x, some y => some (x * 16 + y)
  | _, _ => none

/-- `ParseUid(text)` (R250): exactly four 2-hex-digit groups separated by hyphens; `none` is INVALID. -/
def parseUid : List Byte → Option (Vector Byte 4)
  | [a0, a1, h1, b0, b1, h2, c0, c1, h3, d0, d1] =>
    if h1 = 0x2D ∧ h2 = 0x2D ∧ h3 = 0x2D then
      match hexPair a0 a1, hexPair b0 b1, hexPair c0 c1, hexPair d0 d1 with
      | some a, some b, some c, some d => some #v[a, b, c, d]
      | _, _, _, _ => none
    else none
  | _ => none

/-! ## Tables (R251 to R253) -/

/-- `BoardType(x)` (R251): the strict bound `x < len(BOARD_TYPES)`. -/
def boardType (cfg : Config) (x : Byte) : BoardKind :=
  match cfg.boardTypes[x.toNat]? with
  | some name => .known name
  | none => .unknown x

/-- The state a list of pairs maps a byte to (the first pair with that byte; log entry 17). -/
def shuntLookup (x : Byte) : List (Byte × ShuntState) → Option ShuntState
  | [] => none
  | (b, st) :: rest => if b = x then some st else shuntLookup x rest

/-- `ShuntState(x)` (R252). -/
def shuntReport (cfg : Config) (x : Byte) : ShuntReport :=
  match shuntLookup x cfg.shuntStates with
  | some st => .known st
  | none => .unknown x

/-- The width of the first entry with that id (ids are distinct, R46; log entry 17). -/
def widthLookup (id : Byte) : List ParamDescriptor → Option ParamWidth
  | [] => none
  | d :: rest => if d.id = id then some d.width else widthLookup id rest

/-- `Width(id)` (R253). -/
def paramWidth (cfg : Config) (id : Byte) : Option ParamWidth := widthLookup id cfg.registry

/-! ## Reply payloads (30_encoding.md R104) -/

/-- The DeviceRecord of a GET_IDENTITY reply from `a`; `none` unless the payload has exactly 8 bytes (R242). -/
def identityOf (cfg : Config) (a : Byte) : List Byte → Option DeviceRecord
  | [u0, u1, u2, u3, bt, major, minor, patch] =>
    some ⟨a, #v[u0, u1, u2, u3], boardType cfg bt, major, minor, patch⟩
  | _ => none

/-- The three values of a GET_ADC_RAW reply; `none` unless the payload has exactly 6 bytes (R244). -/
def adcOf : List Byte → Option (Word16 × Word16 × Word16)
  | [q0, q1, q2, q3, q4, q5] => some (le16 q0 q1, le16 q2 q3, le16 q4 q5)
  | _ => none

/-- The reading of a GET_STATUS reply; `none` unless the payload has exactly 5 bytes (R245). -/
def statusOf (cfg : Config) : List Byte → Option StatusReading
  | [q0, q1, q2, q3, q4] => some ⟨le16 q0 q1, sext16 (le16 q2 q3), shuntReport cfg q4⟩
  | _ => none

/-- The outcome of GET_STATUS from its reply (R245), as MONITOR reports it (R300). -/
def statusOutcome (cfg : Config) : Option Packet → StatusOutcome
  | none => .noResponse
  | some r =>
    match statusOf cfg r.payload with
    | some x => .reading x
    | none => .badReply r.payload

/-- The value of a GET_PARAMETER reply payload `q`; `none` if `len(q) != 1 + w` or `q[0] != id` (R249, R295). -/
def paramValue (id : Byte) : ParamWidth → List Byte → Option Word16
  | .one, [i, lo] => if i = id then some (le16 lo 0x00) else none
  | .two, [i, lo, hi] => if i = id then some (le16 lo hi) else none
  | _, _ => none

/-- The outcome of one entry of GET_ALL_PARAMETERS (R295). -/
def paramOutcome (id : Byte) (w : ParamWidth) : Option Packet → ParamOutcome
  | none => .noResponse
  | some r =>
    match paramValue id w r.payload with
    | some v => .value v
    | none => .mismatch r.payload

/-! ## Bootloader operands and requests (20_memory.md R73, R74; 30_encoding.md R108) -/

/-- The byte addresses BL_LOAD_ADDRESS accepts: even and below 0x20000 (R322). -/
def loadAddressOk (addr : Nat) : Bool := addr % 2 == 0 && decide (addr < 0x20000)

/-- The word address `w = addr >> 1` (R322). -/
def wordAddress (addr : Nat) : Word16 := BitVec.ofNat 16 (addr / 2)

/-- GET_SYNC (R108). -/
def getSyncRequest (c : StkCodes) : List Byte := [c.getSync, c.eop.val]

/-- The two version requests (R108, R321). -/
def versionRequest (c : StkCodes) : VersionPart → List Byte
  | .minor => [c.getParameter, c.swMinor, c.eop.val]
  | .major => [c.getParameter, c.swMajor, c.eop.val]

/-- LOAD_ADDRESS (R108): the word address in the order of R73. -/
def loadAddressRequest (c : StkCodes) (w : Word16) : List Byte :=
  if c.addressLowFirst then [c.loadAddress, lo8 w, hi8 w, c.eop.val] else [c.loadAddress, hi8 w, lo8 w, c.eop.val]

/-- The length field of a block request, 16 in the order of R73: `00 10` by default. -/
def lengthField (c : StkCodes) : List Byte := if c.lengthHighFirst then [0x00, 0x10] else [0x10, 0x00]

/-- PROG_PAGE (R108, R324). -/
def progPageRequest (c : StkCodes) (d : Vector Byte 16) : List Byte :=
  [c.progPage] ++ lengthField c ++ [c.memtypeFlash] ++ d.toList ++ [c.eop.val]

/-- READ_PAGE (R108, R325). -/
def readPageRequest (c : StkCodes) : List Byte := [c.readPage] ++ lengthField c ++ [c.memtypeFlash] ++ [c.eop.val]

/-- `Ack2(r)` is `r = [0x14, 0x10]` (R323). -/
def ack2 (c : StkCodes) (r : List Byte) : Bool := r == [c.insync.val, c.ok.val]

/-- The version byte of a reply `14 v 10` (R321). -/
def versionByte (c : StkCodes) : List Byte → Option Byte
  | [x, v, y] => if x = c.insync.val ∧ y = c.ok.val then some v else none
  | _ => none

/-- The block of a reply `14 d0 .. d15 10`, parsed by position (R325). -/
def readPageData (c : StkCodes) (r : List Byte) : Option (Vector Byte 16) :=
  if r.length = 18 ∧ r.getD 0 0 = c.insync.val ∧ r.getD 17 0 = c.ok.val then some (block16 (r.drop 1)) else none

end Sys2Proof.Machine
end

