-- ==== Sys2Proof/Machine/Ops.lean ====
section
/-!
DEFINITION. The named operations over ports, buffers and memory: the pseudocode primitives of 00_scope.md R12, the end
of an operation (60_exceptions.md R370, R374) and the firmware image (20_memory.md R76, R77).
-/

namespace Sys2Proof.Machine

/-! ## The firmware image (20_memory.md section 3) -/

/-- What an address that is not listed reads as: ABSENT (R76). -/
def Memory.unlisted : Option Byte := none

/-- `ImageRead(a)`: the byte listed at `a`, or ABSENT (R76). -/
def Memory.read : Memory → Nat → Option Byte
  | [], _ => Memory.unlisted
  | (k, b) :: rest, a => if k = a then some b else Memory.read rest a

/-- Put byte `b` at address `a`: how the integrator loads the image before the first pass (70_reset_and_hazards.md
R402). No step of the block calls it: "The block never writes the image" (R76). -/
def Memory.write : Memory → Nat → Byte → Memory
  | [], a, b => [(a, b)]
  | (k, c) :: rest, a, b =>
    if a < k then (a, b) :: (k, c) :: rest
    else if a = k then (a, b) :: rest
    else (k, c) :: Memory.write rest a b

/-- Every address of the list is above `lo` and inside the 32-bit space of R76, and the addresses rise strictly. -/
def Memory.risesFrom : Nat → Memory → Bool
  | _, [] => true
  | lo, (k, _) :: rest => decide (lo ≤ k) && decide (k < 2 ^ 32) && Memory.risesFrom (k + 1) rest

/-- The canonical form: addresses strictly rising, all below 2^32. A listed byte is never ABSENT, so no entry equals
what an unlisted address reads as. -/
def Memory.wf (m : Memory) : Bool := Memory.risesFrom 0 m

/-- `Window(b)` (R77): 16 image bytes from `b`, an absent byte read as 0xFF. -/
def window (m : Memory) (b : Nat) : Vector Byte 16 := Vector.ofFn fun i => (m.read (b + i.val)).getD 0xFF

/-- `blank(w)`: every byte is 0xFF (10_state.md R48). -/
def blank (w : Vector Byte 16) : Bool := w.toList.all (· == 0xFF)

/-! ## Ports (R12, R30) -/

/-- Append to the record of what the block did at its ports. -/
def State.logged (s : State) (e : PortEvent) : State := { s with portLog := s.portLog ++ [e] }

/-- `TxWrite(b)` (R12, R33). -/
def txWrite (b : Byte) (s : State) : State := s.logged (.tx b)

/-- `TxWrite` of every byte of a sequence, in order (R12). -/
def txWrites : List Byte → State → State
  | [], s => s
  | b :: bs, s => txWrites bs (txWrite b s)

/-- `SetTimeout(sel)`: `tmo_sel <- sel`, driven on `TMO_SEL` (R12, R38; 90_conflicts.md C10). -/
def setTimeout (sel : TimeoutSel) (s : State) : State := { s.logged (.tmoSel sel) with tmoSel := sel }

/-- `RxRead()` took event `e`, and `rest` is what the environment will answer to later reads (R12, R32). -/
def rxTake (e : RxEvent) (rest : List RxEvent) (s : State) : State := { s.logged (.rx e) with rx := rest }

/-- `HostOut(rec)` (R12). -/
def hostOut (r : HostRecord) (s : State) : State := s.logged (.out r)

/-- The level the next `Stop()` samples (R12, R30; log entry 4). -/
def stopLevel (s : State) : Bool := s.stopNext.headD s.stop

/-- `Stop()`: sample the `STOP` input (R12, R377). -/
def stopSample (s : State) : State :=
  { s.logged (.stop (stopLevel s)) with stop := stopLevel s, stopNext := s.stopNext.tail }

/-- `MemWrite(rx_hdr, i, 1, v)`; an index the buffer does not have is not written (log entry 10). -/
def hdrWrite (i : Nat) (v : Byte) (s : State) : State := { s with rxHdr := s.rxHdr.setIfInBounds i v }

/-- `MemWrite(rx_pay, i, 1, v)`; an index the buffer does not have is not written (log entry 10). -/
def payWrite (i : Nat) (v : Byte) (s : State) : State := { s with rxPay := s.rxPay.setIfInBounds i v }

/-- `MemRead(rx_pay, 0, n)`. -/
def payRead (n : Nat) (s : State) : List Byte := s.rxPay.toList.take n

/-! ## The end of an operation (60_exceptions.md R370, R374; 10_state.md R40) -/

/-- `Result(code, data)`: the record goes on `HOST_OUT` and `op_state` becomes IDLE (R12, R40). -/
def result (code : ResultCode) (data : ResultData) (s : State) : State :=
  { hostOut (.result code data) s with opState := .idle }

/-- Error entry, the block's only exception: `raise Fail(code, info)` "is the same as `Result(code, info)`. No state is
saved" (R12, R374). There is no return from it: the next operation starts from IDLE (R375). -/
def raiseFail (code : ResultCode) (info : ResultData) (s : State) : State := result code info s

/-- The running operation goes on at position `p` when its environment lets it (R40). -/
def waitAt (p : Pos) (s : State) : State := { s with opState := .busy p }

/-- Whether the block is blocked in `RxRead()` (60_exceptions.md R385). -/
def Pos.awaitsRx : Pos → Bool
  | .frameRx => true
  | .reply _ => true
  | .readN _ _ _ => true
  | .monitorPause => false
  | .passAgain _ => false

/-- Whether an operation is blocked in `RxRead()`. -/
def OpState.awaitsRx : OpState → Bool
  | .idle => false
  | .busy p => p.awaitsRx

/-! ## Views -/

/-- The opcode of the operation that waits with this reply position (30_encoding.md R120). -/
def ReplyPos.opcode : ReplyPos → Byte
  | .ping _ => 0x11
  | .getIdentity _ => 0x13
  | .setAddress _ _ => 0x14
  | .getAdcRaw _ => 0x15
  | .getStatus _ => 0x16
  | .shuntOn _ => 0x17
  | .shuntOff _ => 0x18
  | .setParameter _ _ _ _ => 0x19
  | .getParameter _ _ _ => 0x1A
  | .discover _ => 0x20
  | .getAll _ _ => 0x21
  | .monitorScan _ => 0x22
  | .monitorPoll _ _ => 0x22

/-- The opcode of the operation that waits with this read position (R120). -/
def ReadPos.opcode : ReadPos → Byte
  | .sync => 0x30
  | .versionMinor => 0x31
  | .versionMajor _ => 0x31
  | .loadAddress _ => 0x32
  | .writeBlock => 0x33
  | .readBlock => 0x34
  | .programLoad _ _ => 0x35
  | .programWrite _ => 0x35
  | .verifyLoad _ => 0x36
  | .verifyRead _ => 0x36

/-- The opcode of the pass (R120). -/
def PassPos.opcode : PassPos → Byte
  | .program _ => 0x35
  | .verify => 0x36

/-- The `op` of `BUSY(op)` (10_state.md R40). -/
def Pos.opcode : Pos → Byte
  | .frameRx => 0x04
  | .reply k => k.opcode
  | .readN _ _ k => k.opcode
  | .monitorPause => 0x22
  | .passAgain k => k.opcode

/-- The bytes put on `TX` by these port events. -/
def txOf : List PortEvent → List Byte
  | [] => []
  | .tx b :: rest => b :: txOf rest
  | .rx _ :: rest => txOf rest
  | .tmoSel _ :: rest => txOf rest
  | .stop _ :: rest => txOf rest
  | .out _ :: rest => txOf rest

/-- The events taken from `RX` by these port events. -/
def rxOf : List PortEvent → List RxEvent
  | [] => []
  | .rx e :: rest => e :: rxOf rest
  | .tx _ :: rest => rxOf rest
  | .tmoSel _ :: rest => rxOf rest
  | .stop _ :: rest => rxOf rest
  | .out _ :: rest => rxOf rest

/-- The records put on `HOST_OUT` by these port events. -/
def outOf : List PortEvent → List HostRecord
  | [] => []
  | .out r :: rest => r :: outOf rest
  | .tx _ :: rest => outOf rest
  | .rx _ :: rest => outOf rest
  | .tmoSel _ :: rest => outOf rest
  | .stop _ :: rest => outOf rest

/-- The numbers of R370. -/
def ResultCode.number : ResultCode → Nat
  | .ok => 0
  | .noResponse => 1
  | .noPacket => 2
  | .badInput => 3
  | .badReply => 4
  | .paramMismatch => 5
  | .syncFailed => 6
  | .blBadAck => 7
  | .verifyMismatch => 8
  | .badOp => 9

/-- The reason codes of 42_frame_decoder.md R190. -/
def NpReason.number : NpReason → Nat
  | .timeout => 0
  | .short => 1
  | .framing => 2
  | .crc => 3

/-- The duration the transport applies under a setting of `TMO_SEL` (R381): an opaque parameter. -/
def timeoutOf (cfg : Config) : TimeoutSel → Nat
  | .normal => cfg.tNormal
  | .write => cfg.tWrite
  | .discover => cfg.tDiscover

end Sys2Proof.Machine
end

