-- ==== Sys2Proof/Machine/Crc.lean ====
section
/-!
DEFINITION. The CRC-8 function of 40_crc8.md R150 to R152, bit-serial as the source requires.
-/

namespace Sys2Proof.Machine

/-- One of the 8 iterations of R152: shift left, and XOR with the polynomial if the high bit was set. -/
def crcShift (c : Config) (a : Byte) : Byte := if a.getLsbD 7 then (a <<< 1) ^^^ c.crcPoly.val else a <<< 1

/-- `crc8_step(acc, b)` (R152). -/
def crc8Step (c : Config) (acc b : Byte) : Byte :=
  crcShift c (crcShift c (crcShift c (crcShift c (crcShift c (crcShift c (crcShift c (crcShift c (acc ^^^ b))))))))

/-- The accumulator after feeding `bs` to one that holds `acc` (R151). -/
def crcFeed (c : Config) (acc : Byte) : List Byte → Byte
  | [] => acc
  | b :: bs => crcFeed c (crc8Step c acc b) bs

/-- `crc8(s)` (R151). -/
def crc8 (c : Config) (bs : List Byte) : Byte := crcFeed c c.crcInit.val bs

end Sys2Proof.Machine
end

