-- ==== Sys2Proof/Machine/Framer.lean ====
section
/-!
DEFINITION. The packet framer (41_frame_encoder.md R170, R171, R173).
-/

namespace Sys2Proof.Machine

/-- The bytes the CRC covers: flags, address, command, length, payload (R103, R170). -/
def frameBody (c : Config) (p : Packet) : List Byte :=
  [flagsByte c p.isReply, p.address, p.command, BitVec.ofNat 8 p.payload.length] ++ p.payload

/-- The preamble and the sync byte (R100, R170). -/
def frameStart (c : Config) : List Byte :=
  List.replicate c.preambleCount.val c.preambleByte.val ++ [c.syncByte.val]

/-- The frame of a packet (R170). -/
def frameBytes (c : Config) (p : Packet) : List Byte := frameStart c ++ frameBody c p ++ [crc8 c (frameBody c p)]

/-- `encode(p)` (R170), which takes only payloads of length at most 255 (R173). -/
def encodeFrame (c : Config) (p : Packet) : Option (List Byte) :=
  if p.payload.length ≤ c.maxPayload.val then some (frameBytes c p) else none

/-- `SendPacket(p)` for a packet that has a frame (R171). -/
def sendPacket (p : Packet) (s : State) : State := txWrites (frameBytes s.cfg p) s

end Sys2Proof.Machine
end

