-- ==== Sys2Proof/Machine/Deframer.lean ====
section
/-!
DEFINITION. The packet deframer: the step function `DecStep(ev)` of 42_frame_decoder.md R191, one definition per state
of the decoder.
-/

namespace Sys2Proof.Machine

/-- A `TMO` in any state (R193). -/
def decTimeout (s : State) : State × DecOut :=
  ({ s with rxState := .seekPreamble },
    .np (match s.rxState with
      | .seekPreamble => .timeout
      | .seekSync => .short
      | .readHeader => .short
      | .readPayload => .short
      | .readCrc => .short))

/-- `SEEK_PREAMBLE` (R192). -/
def decSeekPreamble (b : Byte) (s : State) : State × DecOut :=
  if b = s.cfg.preambleByte.val then ({ s with rxState := .seekSync }, .none) else (s, .none)

/-- `SEEK_SYNC` (R192). -/
def decSeekSync (b : Byte) (s : State) : State × DecOut :=
  if b = s.cfg.preambleByte.val then (s, .none)
  else if b = s.cfg.syncByte.val then
    ({ s with rxHcnt := 0, rxPcnt := 0, rxCrc := s.cfg.crcInit.val, rxState := .readHeader }, .none)
  else ({ s with rxState := .seekPreamble }, .np .framing)

/-- The header or payload byte `b` enters the running CRC (R194). -/
def rxCrcFeed (b : Byte) (s : State) : State := { s with rxCrc := crc8Step s.cfg s.rxCrc b }

/-- `READ_HEADER` (R194). -/
def decReadHeader (b : Byte) (s : State) : State × DecOut :=
  let s := hdrWrite s.rxHcnt b s
  let s := rxCrcFeed b { s with rxHcnt := s.rxHcnt + 1 }
  if s.rxHcnt = 4 then
    ({ s with rxState := if 0 < s.rxHdr[3].toNat then .readPayload else .readCrc }, .none)
  else (s, .none)

/-- `READ_PAYLOAD` (R194). -/
def decReadPayload (b : Byte) (s : State) : State × DecOut :=
  let s := payWrite s.rxPcnt b s
  let s := rxCrcFeed b { s with rxPcnt := s.rxPcnt + 1 }
  if s.rxPcnt = s.rxHdr[3].toNat then ({ s with rxState := .readCrc }, .none) else (s, .none)

/-- The packet built from the header and the payload taken (R196). -/
def rxPacket (s : State) : Packet where
  address := s.rxHdr[1]
  command := s.rxHdr[2]
  isReply := replyFlag s.cfg s.rxHdr[0]
  payload := payRead s.rxPcnt s

/-- `READ_CRC` (R195, R196). -/
def decReadCrc (b : Byte) (s : State) : State × DecOut :=
  ({ s with rxState := .seekPreamble }, if b = s.rxCrc then .pkt (rxPacket s) else .np .crc)

/-- `DecStep(ev)` (R191). -/
def decStep (e : RxEvent) (s : State) : State × DecOut :=
  match e with
  | .tmo => decTimeout s
  | .byte b =>
    match s.rxState with
    | .seekPreamble => decSeekPreamble b s
    | .seekSync => decSeekSync b s
    | .readHeader => decReadHeader b s
    | .readPayload => decReadPayload b s
    | .readCrc => decReadCrc b s

end Sys2Proof.Machine
end

