-- ==== Sys2Proof/Machine/Command.lean ====
section
/-!
DEFINITION. The command protocol (43_command_protocol.md): the request of an exchange (R230), and what each command
does with the outcome of its wait (R240 to R249). `none` is NOREPLY; `some p` is the matching reply.
-/

namespace Sys2Proof.Machine

/-! ## The exchange (R230) -/

/-- `Exchange` up to its wait: the session registers, then the request frame; a request never has `isReply` (R230). -/
def sendRequest (a c : Byte) (pl : List Byte) (s : State) : State :=
  sendPacket ⟨a, c, false, pl⟩ { s with sesAddr := a, sesCmd := c, sesReq := pl }

/-- `Exchange(a, c, pl, true)` up to its wait, with what the operation does afterwards (R230). -/
def exchange (a c : Byte) (pl : List Byte) (k : ReplyPos) (s : State) : State :=
  waitAt (.reply k) (sendRequest a c pl s)

/-! ## What each command does with the outcome of its wait -/

/-- PING after its wait (R240): the reply's payload is not checked. -/
def pingDone (a : Byte) (r : Option Packet) (s : State) : State :=
  match r with
  | none => result .noResponse (.byte a) s
  | some _ => result .ok (.byte a) s

/-- GET_IDENTITY after its wait (R242). -/
def identityDone (a : Byte) (r : Option Packet) (s : State) : State :=
  match r with
  | none => result .noResponse (.byte a) s
  | some p =>
    match identityOf s.cfg a p.payload with
    | some d => result .ok (.device d) s
    | none => result .badReply (.bytes p.payload) s

/-- SET_ADDRESS after its wait (R243): the reply's payload must equal the UID sent. -/
def setAddressDone (a : Byte) (uid : Vector Byte 4) (r : Option Packet) (s : State) : State :=
  match r with
  | none => result .noResponse (.byte a) s
  | some p =>
    if p.payload = uid.toList then result .ok (.bound a uid) s else result .badReply (.bytes p.payload) s

/-- GET_ADC_RAW after its wait (R244). -/
def adcDone (a : Byte) (r : Option Packet) (s : State) : State :=
  match r with
  | none => result .noResponse (.byte a) s
  | some p =>
    match adcOf p.payload with
    | some (cell, thermistor, sensor) => result .ok (.adc cell thermistor sensor) s
    | none => result .badReply (.bytes p.payload) s

/-- GET_STATUS after its wait (R245). -/
def statusDone (a : Byte) (r : Option Packet) (s : State) : State :=
  match statusOutcome s.cfg r with
  | .reading x => result .ok (.status x) s
  | .badReply pl => result .badReply (.bytes pl) s
  | .noResponse => result .noResponse (.byte a) s

/-- SHUNT_ON after its wait (R246): the reply's payload is not checked. -/
def shuntOnDone (a : Byte) (r : Option Packet) (s : State) : State :=
  match r with
  | none => result .noResponse (.byte a) s
  | some _ => result .ok (.byte a) s

/-- SHUNT_OFF after its wait (R247): the reply's payload is not checked. -/
def shuntOffDone (a : Byte) (r : Option Packet) (s : State) : State :=
  match r with
  | none => result .noResponse (.byte a) s
  | some _ => result .ok (.byte a) s

/-- SET_PARAMETER after its wait (R248): the reply must be an exact echo of the request payload `pl`. -/
def setParameterDone (a id : Byte) (v : Word16) (pl : List Byte) (r : Option Packet) (s : State) : State :=
  match r with
  | none => result .noResponse (.byte a) s
  | some p => if p.payload = pl then result .ok (.param id v) s else result .badReply (.bytes p.payload) s

/-- GET_PARAMETER after its wait (R249). -/
def getParameterDone (a id : Byte) (w : ParamWidth) (r : Option Packet) (s : State) : State :=
  match r with
  | none => result .noResponse (.byte a) s
  | some p =>
    match paramValue id w p.payload with
    | some v => result .ok (.param id v) s
    | none => result .paramMismatch (.bytes p.payload) s

end Sys2Proof.Machine
end

