-- ==== Sys2Proof/Machine/Session.lean ====
section
/-!
DEFINITION. The session sequences (44_session_sequences.md): the loops of DISCOVER (R290), GET_ALL_PARAMETERS (R295)
and MONITOR (R300), each as the work between one wait and the next.
-/

namespace Sys2Proof.Machine

/-! ## The scan loop of R290, run by DISCOVER and by MONITOR -/

/-- The loop of R290 from address `a` on: PING it, or, past `n`, go on with `fin`. -/
def scanFrom (n : Byte) (a : Nat) (k : ReplyPos) (fin : State → State) (s : State) : State :=
  if a ≤ n.toNat then exchange (BitVec.ofNat 8 a) 0x01 [] k { s with seqIdx := BitVec.ofNat 32 a }
  else fin s

/-- `if r != NOREPLY: seq_present <- seq_present ++ [seq_idx]` (R290). -/
def scanRecord (r : Option Packet) (s : State) : State :=
  if r.isSome then { s with seqPresent := s.seqPresent ++ [s.seqIdx.setWidth 8] } else s

/-- The registers the scan uses are cleared (R41; log entry 9), and the short timeout is selected (R290). -/
def scanStart (s : State) : State := setTimeout .discover { s with seqIdx := 0, seqPresent := [] }

/-- DISCOVER after the last address (R290). -/
def discoverEnd (s : State) : State :=
  let s := setTimeout .normal s
  result .ok (.addresses s.seqPresent) s

/-- DISCOVER after the wait for one address (R290). -/
def discoverDone (n : Byte) (r : Option Packet) (s : State) : State :=
  scanFrom n (s.seqIdx.toNat + 1) (.discover n) discoverEnd (scanRecord r s)

/-! ## GET_ALL_PARAMETERS (R295) -/

/-- The loop of R295 from registry index `i` on. -/
def getAllFrom (a : Byte) (i : Nat) (s : State) : State :=
  match s.cfg.registry[i]? with
  | some d => exchange a 0x0A [d.id] (.getAll a d) { s with seqIdx := BitVec.ofNat 32 i }
  | none => result .ok (.params s.seqResults) s

/-- GET_ALL_PARAMETERS after the wait for entry `d` (R295). -/
def getAllDone (a : Byte) (d : ParamDescriptor) (r : Option Packet) (s : State) : State :=
  getAllFrom a (s.seqIdx.toNat + 1)
    { s with seqResults := s.seqResults ++ [⟨d.id, d.name, paramOutcome d.id d.width r⟩] }

/-! ## MONITOR (R300) -/

/-- The rest of a polling round: GET_STATUS to the next node; after the last one, `if Stop(): Result(OK, seq_present)`,
else the block waits for the next round (R300). -/
def monitorPollFrom (l : List Byte) (s : State) : State :=
  match l with
  | a :: rest => exchange a 0x06 [] (.monitorPoll a rest) s
  | [] =>
    if stopLevel s then result .ok (.addresses s.seqPresent) (stopSample s)
    else waitAt .monitorPause (stopSample s)

/-- One polling round over the present nodes (R300). -/
def monitorRound (s : State) : State := monitorPollFrom s.seqPresent s

/-- MONITOR after the last address of its scan (R300). -/
def monitorScanEnd (s : State) : State := monitorRound (setTimeout .normal s)

/-- MONITOR after the wait for one address of its scan (R300). -/
def monitorScanDone (n : Byte) (r : Option Packet) (s : State) : State :=
  scanFrom n (s.seqIdx.toNat + 1) (.monitorScan n) monitorScanEnd (scanRecord r s)

/-- MONITOR after the wait for node `a`'s status (R300). -/
def monitorPollDone (a : Byte) (rest : List Byte) (r : Option Packet) (s : State) : State :=
  monitorPollFrom rest (hostOut (.monitor a (statusOutcome s.cfg r)) s)

end Sys2Proof.Machine
end

