-- ==== Sys2Proof/Machine/Boot.lean ====
section
/-!
DEFINITION. The bootloader frame handler (45_bootloader.md): the request of each exchange, what each operation does with
the bytes `RxReadN` returned, and the program and verify passes (R326 to R328), each as the work between one wait and
the next.
-/

namespace Sys2Proof.Machine

/-- Write a request, then `RxReadN(want)` (R12, R33). -/
def bootExchange (req : List Byte) (want : Nat) (k : ReadPos) (s : State) : State :=
  waitAt (.readN want [] k) (txWrites req s)

/-! ## BL_SYNC (R320) -/

/-- The loop of R320 from its test on. -/
def syncTry (s : State) : State :=
  if s.blRetry < s.cfg.syncAttempts then
    bootExchange (getSyncRequest s.cfg.stk) 2 .sync { s with blRetry := s.blRetry + 1 }
  else result .syncFailed (.count s.cfg.syncAttempts) s

/-- BL_SYNC after an attempt's read (R320). -/
def syncDone (r : List Byte) (s : State) : State :=
  if ack2 s.cfg.stk r then result .ok (.count s.blRetry) s else syncTry s

/-! ## BL_GET_VERSION (R321) -/

/-- BL_GET_VERSION after the minor reply (R321): a malformed one ends it, and the major request is not sent. DESIGN
CHOICE (log entry 23): R321 gives the failing exchange as the record's data and the table of R370 the bytes read; the
record carries both. -/
def versionMinorDone (r : List Byte) (s : State) : State :=
  match versionByte s.cfg.stk r with
  | some v => bootExchange (versionRequest s.cfg.stk .major) 3 (.versionMajor v) s
  | none => raiseFail .blBadAck (.badVersion .minor r) s

/-- BL_GET_VERSION after the major reply (R321). DESIGN CHOICE (log entry 23): the record's data as after the minor one. -/
def versionMajorDone (minor : Byte) (r : List Byte) (s : State) : State :=
  match versionByte s.cfg.stk r with
  | some v => result .ok (.version v minor) s
  | none => raiseFail .blBadAck (.badVersion .major r) s

/-! ## The block exchanges (R322, R324, R325) -/

/-- The cursor registers after the acknowledgement of a load address (R322). -/
def loadAck (w : Word16) (r : List Byte) (s : State) : State :=
  if ack2 s.cfg.stk r then { s with blCursor := w, blCursorValid := true } else { s with blCursorValid := false }

/-- BL_LOAD_ADDRESS after its acknowledgement (R322). -/
def loadAddressDone (w : Word16) (r : List Byte) (s : State) : State :=
  if ack2 s.cfg.stk r then result .ok (.word w) (loadAck w r s) else result .blBadAck (.bytes r) (loadAck w r s)

/-- BL_WRITE_BLOCK's body up to its read (R324): the data register, the longer timeout, the request. -/
def writeBlockSend (d : Vector Byte 16) (k : ReadPos) (s : State) : State :=
  bootExchange (progPageRequest s.cfg.stk d) 2 k (setTimeout .write { s with blData := d })

/-- The timeout and the cursor register after the acknowledgement of a block write (R324). -/
def writeAck (s : State) : State := { setTimeout .normal s with blCursorValid := false }

/-- BL_WRITE_BLOCK after its acknowledgement (R324). -/
def writeBlockDone (r : List Byte) (s : State) : State :=
  if ack2 s.cfg.stk r then result .ok (.count 16) (writeAck s) else result .blBadAck (.bytes r) (writeAck s)

/-- The cursor and data registers after the reply of a block read (R325). -/
def readAck (r : List Byte) (s : State) : State :=
  match readPageData s.cfg.stk r with
  | some d => { s with blCursorValid := false, blData := d }
  | none => { s with blCursorValid := false }

/-- BL_READ_BLOCK after its reply (R325). -/
def readBlockDone (r : List Byte) (s : State) : State :=
  match readPageData s.cfg.stk r with
  | some d => result .ok (.block d) (readAck r s)
  | none => result .blBadAck (.bytes r) (readAck r s)

/-! ## The passes (R326 to R328) -/

/-- The number of windows from base `b` up to `BOOT_BOUNDARY` (R326). -/
def windowsFrom (cfg : Config) (b : Nat) : Nat :=
  (cfg.bootBoundary.toNat - b + (cfg.blBlock.val - 1)) / cfg.blBlock.val

/-- The test `seq_idx < BOOT_BOUNDARY` behind the last window (R327, R328): the pass ends with `fin`. Under a boundary
above the last 32-bit window base, which R402 leaves unchecked, `seq_idx` is 0 again there and the pass goes on (log
entry 11). -/
def passTest (k : PassPos) (fin : State → State) (b : Nat) (s : State) : State :=
  if s.cfg.bootBoundary.toNat ≤ (BitVec.ofNat 32 b).toNat then fin { s with seqIdx := BitVec.ofNat 32 b }
  else waitAt (.passAgain k) { s with seqIdx := BitVec.ofNat 32 b }

/-- The loop of BL_PROGRAM from base `b` on, with `count` windows written and at most `fuel` windows ahead (R327). -/
def programLoop (count : Nat) : Nat → Nat → State → State
  | 0, b, s => passTest (.program count) (result .ok (.count count)) b s
  | fuel + 1, b, s =>
    if blank (window s.image b) then programLoop count fuel (b + s.cfg.blBlock.val) s
    else if loadAddressOk b then
      bootExchange (loadAddressRequest s.cfg.stk (wordAddress b)) 2 (.programLoad (window s.image b) count)
        { s with seqIdx := BitVec.ofNat 32 b }
    else raiseFail .blBadAck (.windowBase (BitVec.ofNat 32 b)) { s with seqIdx := BitVec.ofNat 32 b }

/-- BL_PROGRAM from base `b` on (R327). -/
def programFrom (count b : Nat) (s : State) : State := programLoop count (windowsFrom s.cfg b) b s

/-- BL_PROGRAM after the acknowledgement of a window's load address (R327). -/
def programLoadDone (win : Vector Byte 16) (count : Nat) (r : List Byte) (s : State) : State :=
  let s := loadAck (wordAddress s.seqIdx.toNat) r s
  if ack2 s.cfg.stk r then writeBlockSend win (.programWrite count) s
  else raiseFail .blBadAck (.windowBase s.seqIdx) s

/-- BL_PROGRAM after the acknowledgement of a window's block write (R327). -/
def programWriteDone (count : Nat) (r : List Byte) (s : State) : State :=
  let s := writeAck s
  if ack2 s.cfg.stk r then programFrom (count + 1) (s.seqIdx.toNat + s.cfg.blBlock.val) s
  else raiseFail .blBadAck (.windowBase s.seqIdx) s

/-- The end of BL_VERIFY (R328). -/
def verifyEnd (s : State) : State :=
  if s.seqMismatch = [] then result .ok (.count 0) s
  else result .verifyMismatch (.windows s.seqMismatch) s

/-- `seq_mismatch <- seq_mismatch ++ [b]` (R328). -/
def addMismatch (b : Word32) (s : State) : State := { s with seqMismatch := s.seqMismatch ++ [b] }

/-- The loop of BL_VERIFY from base `b` on, with at most `fuel` windows ahead (R328). -/
def verifyLoop : Nat → Nat → State → State
  | 0, b, s => passTest .verify verifyEnd b s
  | fuel + 1, b, s =>
    if blank (window s.image b) then verifyLoop fuel (b + s.cfg.blBlock.val) s
    else if loadAddressOk b then
      bootExchange (loadAddressRequest s.cfg.stk (wordAddress b)) 2 (.verifyLoad (window s.image b))
        { s with seqIdx := BitVec.ofNat 32 b }
    else verifyLoop fuel (b + s.cfg.blBlock.val) (addMismatch (BitVec.ofNat 32 b) s)

/-- BL_VERIFY from base `b` on (R328). -/
def verifyFrom (b : Nat) (s : State) : State := verifyLoop (windowsFrom s.cfg b) b s

/-- BL_VERIFY after the acknowledgement of a window's load address (R328): a failure counts as a mismatch, and the read
is skipped. -/
def verifyLoadDone (win : Vector Byte 16) (r : List Byte) (s : State) : State :=
  let s := loadAck (wordAddress s.seqIdx.toNat) r s
  if ack2 s.cfg.stk r then bootExchange (readPageRequest s.cfg.stk) 18 (.verifyRead win) s
  else verifyFrom (s.seqIdx.toNat + s.cfg.blBlock.val) (addMismatch s.seqIdx s)

/-- BL_VERIFY after the reply of a window's block read (R328). -/
def verifyReadDone (win : Vector Byte 16) (r : List Byte) (s : State) : State :=
  let s := readAck r s
  if readPageData s.cfg.stk r = some win then verifyFrom (s.seqIdx.toNat + s.cfg.blBlock.val) s
  else verifyFrom (s.seqIdx.toNat + s.cfg.blBlock.val) (addMismatch s.seqIdx s)

end Sys2Proof.Machine
end

