-- ==== Sys2Proof/Machine/Engine.lean ====
section
/-!
DEFINITION. How a waiting operation goes on: the request-reply matcher `WaitReply()` (43_command_protocol.md R231),
`RxReadN` (00_scope.md R12), one RX event at a time, until the operation ends or finds no event (log entries 2, 3).
-/

namespace Sys2Proof.Machine

/-- `WaitReply()` returned `r` (`none` is NOREPLY): the operation goes on behind its call. -/
def replyDone (k : ReplyPos) (r : Option Packet) (s : State) : State :=
  match k with
  | .ping a => pingDone a r s
  | .getIdentity a => identityDone a r s
  | .setAddress a uid => setAddressDone a uid r s
  | .getAdcRaw a => adcDone a r s
  | .getStatus a => statusDone a r s
  | .shuntOn a => shuntOnDone a r s
  | .shuntOff a => shuntOffDone a r s
  | .setParameter a id v pl => setParameterDone a id v pl r s
  | .getParameter a id w => getParameterDone a id w r s
  | .discover n => discoverDone n r s
  | .getAll a d => getAllDone a d r s
  | .monitorScan n => monitorScanDone n r s
  | .monitorPoll a rest => monitorPollDone a rest r s

/-- `RxReadN` returned the bytes `r`: the operation goes on behind its call. -/
def readDone (k : ReadPos) (r : List Byte) (s : State) : State :=
  match k with
  | .sync => syncDone r s
  | .versionMinor => versionMinorDone r s
  | .versionMajor minor => versionMajorDone minor r s
  | .loadAddress w => loadAddressDone w r s
  | .writeBlock => writeBlockDone r s
  | .readBlock => readBlockDone r s
  | .programLoad win count => programLoadDone win count r s
  | .programWrite count => programWriteDone count r s
  | .verifyLoad win => verifyLoadDone win r s
  | .verifyRead win => verifyReadDone win r s

/-- The matching condition of R231. -/
def matchesReply (p : Packet) (s : State) : Bool :=
  p.address == s.sesAddr && p.command == s.sesCmd && p.isReply

/-- `WaitReply()` on one output of the decoder (R231 to R234). -/
def waitReply (k : ReplyPos) (out : DecOut) (s : State) : State :=
  match out with
  | .none => s
  | .pkt p => if matchesReply p s then replyDone k (some p) s else s
  | .np .framing => s
  | .np .crc => if s.cfg.crcEndsWait then replyDone k none s else s
  | .np .timeout => replyDone k none s
  | .np .short => replyDone k none s

/-- FRAME_RX on one output of its decode attempt (42_frame_decoder.md R203, R204). -/
def frameRxOut (out : DecOut) (s : State) : State :=
  match out with
  | .none => s
  | .pkt p => result .ok (.packet p) s
  | .np r => result .noPacket (.reason r) s

/-- `RxReadN(want)` on one event (R12): it returns at `want` bytes or at a `TMO`. -/
def readEvent (want : Nat) (got : List Byte) (k : ReadPos) (e : RxEvent) (s : State) : State :=
  match e with
  | .tmo => readDone k got s
  | .byte b =>
    if want ≤ got.length + 1 then readDone k (got ++ [b]) s else waitAt (.readN want (got ++ [b]) k) s

/-- The waiting operation on one RX event, already taken. -/
def onEvent (e : RxEvent) (s : State) : State :=
  match s.opState with
  | .idle => s
  | .busy .monitorPause => s
  | .busy (.passAgain _) => s
  | .busy .frameRx => frameRxOut (decStep e s).2 (decStep e s).1
  | .busy (.reply k) => waitReply k (decStep e s).2 (decStep e s).1
  | .busy (.readN want got k) => readEvent want got k e s

/-- Take the events of `l`, one `RxRead()` after another, while the operation waits for one. -/
def drain : List RxEvent → State → State
  | [], s => s
  | e :: rest, s => if s.opState.awaitsRx then drain rest (onEvent e (rxTake e rest s)) else s

/-- Run the waiting operation over the events there are, to its end or to the read that finds none. -/
def pump (s : State) : State := drain s.rx s

/-- Go on with the operation that runs: MONITOR's next round after its pause (R300), a pass that begins again (log
entry 11), or the reads it waits for. -/
def resume (s : State) : State :=
  match s.opState with
  | .busy .monitorPause => pump (monitorRound s)
  | .busy (.passAgain (.program count)) => pump (programFrom count s.seqIdx.toNat s)
  | .busy (.passAgain .verify) => pump (verifyFrom s.seqIdx.toNat s)
  | .busy .frameRx => pump s
  | .busy (.reply _) => pump s
  | .busy (.readN _ _ _) => pump s
  | .idle => s

/-- An illegal host opcode (30_encoding.md R122). -/
def badOp (op : Byte) (s : State) : State := result .badOp (.byte op) s

end Sys2Proof.Machine
end

