-- ==== Sys2Proof/Machine/BootOps.lean ====
section
/-!
DEFINITION. The bootloader operations (45_bootloader.md R320 to R328) as host operations.
-/

namespace Sys2Proof.Machine

/-- BL_SYNC (R320). -/
def execBlSync (s : State) : Host.Outcome State Fault Refusal :=
  .next (pump (syncTry { s with blRetry := 0 }))

/-- BL_GET_VERSION (R321). -/
def execBlGetVersion (s : State) : Host.Outcome State Fault Refusal :=
  .next (pump (bootExchange (versionRequest s.cfg.stk .minor) 3 .versionMinor s))

/-- BL_LOAD_ADDRESS (R322). -/
def execBlLoadAddress (addr : BitVec 24) (s : State) : Host.Outcome State Fault Refusal :=
  .next (
    if loadAddressOk addr.toNat then
      pump (bootExchange (loadAddressRequest s.cfg.stk (wordAddress addr.toNat)) 2
        (.loadAddress (wordAddress addr.toNat)) s)
    else raiseFail .badInput (.addr24 addr) s)

/-- BL_WRITE_BLOCK (R324). -/
def execBlWriteBlock (d : Vector Byte 16) (s : State) : Host.Outcome State Fault Refusal :=
  .next (pump (writeBlockSend d .writeBlock s))

/-- BL_READ_BLOCK (R325). -/
def execBlReadBlock (s : State) : Host.Outcome State Fault Refusal :=
  .next (pump (bootExchange (readPageRequest s.cfg.stk) 18 .readBlock s))

/-- BL_PROGRAM (R327). -/
def execBlProgram (s : State) : Host.Outcome State Fault Refusal :=
  .next (pump (programFrom 0 0 { s with seqIdx := 0 }))

/-- BL_VERIFY (R328). -/
def execBlVerify (s : State) : Host.Outcome State Fault Refusal :=
  .next (pump (verifyFrom 0 { s with seqIdx := 0, seqMismatch := [] }))

end Sys2Proof.Machine
end

