-- ==== Sys2Proof/Machine/CommandOps.lean ====
section
/-!
DEFINITION. The ten runtime commands (43_command_protocol.md R240 to R249), each from its operands to its result or to
the read that finds no event.
-/

namespace Sys2Proof.Machine

/-- PING (R240). -/
def execPing (a : Byte) (s : State) : Host.Outcome State Fault Refusal :=
  .next (pump (exchange a 0x01 [] (.ping a) s))

/-- ENTER_DFU (R241): no reply is awaited. -/
def execEnterDfu (a : Byte) (s : State) : Host.Outcome State Fault Refusal :=
  .next (result .ok (.byte a) (sendRequest a 0x02 [] s))

/-- GET_IDENTITY (R242). -/
def execGetIdentity (a : Byte) (s : State) : Host.Outcome State Fault Refusal :=
  .next (pump (exchange a 0x03 [] (.getIdentity a) s))

/-- SET_ADDRESS (R243). -/
def execSetAddress (a : Byte) (text : List Byte) (s : State) : Host.Outcome State Fault Refusal :=
  .next (
    match parseUid text with
    | none => raiseFail .badInput (.bytes text) s
    | some uid => pump (exchange a 0x04 uid.toList (.setAddress a uid) s))

/-- GET_ADC_RAW (R244). -/
def execGetAdcRaw (a : Byte) (s : State) : Host.Outcome State Fault Refusal :=
  .next (pump (exchange a 0x05 [] (.getAdcRaw a) s))

/-- GET_STATUS (R245). -/
def execGetStatus (a : Byte) (s : State) : Host.Outcome State Fault Refusal :=
  .next (pump (exchange a 0x06 [] (.getStatus a) s))

/-- SHUNT_ON (R246). -/
def execShuntOn (a : Byte) (s : State) : Host.Outcome State Fault Refusal :=
  .next (pump (exchange a 0x07 [] (.shuntOn a) s))

/-- SHUNT_OFF (R247). -/
def execShuntOff (a : Byte) (s : State) : Host.Outcome State Fault Refusal :=
  .next (pump (exchange a 0x08 [] (.shuntOff a) s))

/-- SET_PARAMETER (R248): registry membership, then value width, before any byte is sent (R373). -/
def execSetParameter (a id : Byte) (v : Word16) (s : State) : Host.Outcome State Fault Refusal :=
  .next (
    match paramWidth s.cfg id with
    | none => raiseFail .badInput (.byte id) s
    | some w =>
      if fitsWidth v w then
        pump (exchange a 0x09 (id :: leValue v w) (.setParameter a id v (id :: leValue v w)) s)
      else raiseFail .badInput (.word v) s)

/-- GET_PARAMETER (R249). -/
def execGetParameter (a id : Byte) (s : State) : Host.Outcome State Fault Refusal :=
  .next (
    match paramWidth s.cfg id with
    | none => raiseFail .badInput (.byte id) s
    | some w => pump (exchange a 0x0A [id] (.getParameter a id w) s))

end Sys2Proof.Machine
end

