-- ==== Sys2Proof/Machine/CrcOps.lean ====
section
/-!
DEFINITION. The host operations on the CRC unit (40_crc8.md R153, R154).
-/

namespace Sys2Proof.Machine

/-- CRC_CLR (R153). -/
def execCrcClr (s : State) : Host.Outcome State Fault Refusal :=
  .next (result .ok (.byte s.cfg.crcInit.val) { s with crcAcc := s.cfg.crcInit.val })

/-- CRC_UPD (R154). -/
def execCrcUpd (b : Byte) (s : State) : Host.Outcome State Fault Refusal :=
  .next (result .ok (.byte (crc8Step s.cfg s.crcAcc b)) { s with crcAcc := crc8Step s.cfg s.crcAcc b })

end Sys2Proof.Machine
end

