-- ==== Sys2Proof/Machine/FrameOps.lean ====
section
/-!
DEFINITION. The host operations on the framer and the deframer (41_frame_encoder.md R172, 42_frame_decoder.md R204).
-/

namespace Sys2Proof.Machine

/-- FRAME_TX (R172): a set reserved flag bit or a payload that has no frame (R173) is BAD_INPUT, with nothing sent. -/
def execFrameTx (f a c : Byte) (payload : List Byte) (s : State) : Host.Outcome State Fault Refusal :=
  .next (
    if reservedFlags f ≠ 0 then raiseFail .badInput (.byte f) s
    else
      match encodeFrame s.cfg ⟨a, c, replyFlag s.cfg f, payload⟩ with
      | some bytes => result .ok (.count bytes.length) (txWrites bytes s)
      | none => raiseFail .badInput (.bytes payload) s)

/-- FRAME_RX (R204): one decode attempt. -/
def execFrameRx (s : State) : Host.Outcome State Fault Refusal :=
  .next (pump (waitAt .frameRx s))

end Sys2Proof.Machine
end

