-- ==== Sys2Proof/Machine/SessionOps.lean ====
section
/-!
DEFINITION. The session sequences (44_session_sequences.md R290, R295, R300) as host operations.
-/

namespace Sys2Proof.Machine

/-- DISCOVER (R290). -/
def execDiscover (n : Byte) (s : State) : Host.Outcome State Fault Refusal :=
  .next (
    if s.cfg.discoverMax.toNat < n.toNat then raiseFail .badInput (.byte n) s
    else pump (scanFrom n 1 (.discover n) discoverEnd (scanStart s)))

/-- GET_ALL_PARAMETERS (R295). -/
def execGetAllParameters (a : Byte) (s : State) : Host.Outcome State Fault Refusal :=
  .next (pump (getAllFrom a 0 { s with seqIdx := 0, seqResults := [] }))

/-- MONITOR (R300): the scan, then polling rounds; a step ends where the block lets the interval pass (log entry 14). -/
def execMonitor (n : Byte) (s : State) : Host.Outcome State Fault Refusal :=
  .next (
    if s.cfg.discoverMax.toNat < n.toNat then raiseFail .badInput (.byte n) s
    else pump (scanFrom n 1 (.monitorScan n) monitorScanEnd (scanStart s)))

end Sys2Proof.Machine
end

