-- ==== Sys2Proof/Machine/Dispatch.lean ====
section
/-!
DEFINITION. One arm per host operation of 30_encoding.md R120, each one call of its meaning.
-/

namespace Sys2Proof.Machine

def exec (i : Instr) (s : State) : Host.Outcome State Fault Refusal :=
  match i with
  | .crcClr => Sys2Proof.Machine.execCrcClr s
  | .crcUpd b => Sys2Proof.Machine.execCrcUpd b s
  | .frameTx f a c payload => Sys2Proof.Machine.execFrameTx f a c payload s
  | .frameRx => Sys2Proof.Machine.execFrameRx s
  | .ping a => Sys2Proof.Machine.execPing a s
  | .enterDfu a => Sys2Proof.Machine.execEnterDfu a s
  | .getIdentity a => Sys2Proof.Machine.execGetIdentity a s
  | .setAddress a text => Sys2Proof.Machine.execSetAddress a text s
  | .getAdcRaw a => Sys2Proof.Machine.execGetAdcRaw a s
  | .getStatus a => Sys2Proof.Machine.execGetStatus a s
  | .shuntOn a => Sys2Proof.Machine.execShuntOn a s
  | .shuntOff a => Sys2Proof.Machine.execShuntOff a s
  | .setParameter a id v => Sys2Proof.Machine.execSetParameter a id v s
  | .getParameter a id => Sys2Proof.Machine.execGetParameter a id s
  | .discover n => Sys2Proof.Machine.execDiscover n s
  | .getAllParameters a => Sys2Proof.Machine.execGetAllParameters a s
  | .monitor n => Sys2Proof.Machine.execMonitor n s
  | .blSync => Sys2Proof.Machine.execBlSync s
  | .blGetVersion => Sys2Proof.Machine.execBlGetVersion s
  | .blLoadAddress addr => Sys2Proof.Machine.execBlLoadAddress addr s
  | .blWriteBlock d => Sys2Proof.Machine.execBlWriteBlock d s
  | .blReadBlock => Sys2Proof.Machine.execBlReadBlock s
  | .blProgram => Sys2Proof.Machine.execBlProgram s
  | .blVerify => Sys2Proof.Machine.execBlVerify s

end Sys2Proof.Machine
end

