-- ==== Sys2Proof/Machine/Fetch.lean ====
section
/-!
DEFINITION. Taking a host operation from `HOST_IN` (10_state.md R30, R40; log entry 1).
-/

namespace Sys2Proof.Machine

/-- The block in IDLE: take the operation at the head of `HOST_IN` and run it; an illegal opcode is taken alone and ends
with BAD_OP (30_encoding.md R122); while no whole operation is there, nothing happens. -/
def takeOperation (s : State) : Host.Outcome State Fault Refusal :=
  match decode s.hostIn with
  | .instr i rest => exec i { s with hostIn := rest }
  | .illegal op rest => .next (badOp op { s with hostIn := rest })
  | .incomplete => .next s

/-- One step (R40): a running operation goes on; in IDLE an operation is taken. -/
def stepOnce (s : State) : Host.Outcome State Fault Refusal :=
  match s.opState with
  | .idle => takeOperation s
  | .busy _ => .next (resume s)

/-- `s`, in IDLE, with `bytes` offered first on `HOST_IN`. -/
def offerFirst (bytes : List Byte) (s : State) : State :=
  { s with hostIn := bytes ++ s.hostIn, opState := .idle }

end Sys2Proof.Machine
end

