-- ==== Sys2Proof/Machine/Step.lean ====
section
/-!
DEFINITION. The step function, over Machine/Fetch.lean; and the state whose next step runs a given operation.
-/

namespace Sys2Proof.Machine

/-- One step of the block (log entry 3). -/
def step (s : State) : Host.Outcome State Fault Refusal := stepOnce s

/-- `s` with the operation of `w` (numbered as spec/opcode_table.json numbers it) offered first on `HOST_IN`, and the
block in IDLE, where it takes it (R40; log entry 18). -/
def State.withFetchWord (s : State) (nbits w : Nat) : State := offerFirst (tableOperation nbits w) s

end Sys2Proof.Machine
end

