-- ==== Sys2Proof/Machine/Pseudo.lean ====
section
/-!
DEFINITION. The written side of host programs: the pseudo-instructions of 30_encoding.md R125 with the rule that
`upload` and `verify` stop at the first result that is not OK, and the notation of R124 as a printer (log entry 20). The
block itself knows none of this.
-/

namespace Sys2Proof.Machine

/-- The pseudo-instructions of R125 (but `save`, which is out of scope). -/
inductive Pseudo where
  | discover (n : Byte)
  | dfu (a : Byte)
  | uid (a : Byte)
  | adc (a : Byte)
  | status (a : Byte)
  | addr (a : Byte) (text : List Byte)
  | shuntOn (a : Byte)
  | shuntOff (a : Byte)
  | get (a id : Byte)
  | getAll (a : Byte)
  | set (a id : Byte) (v : Word16)
  | monitor (n : Byte)
  | ping (a : Byte)
  | upload
  | verify
  deriving DecidableEq, Repr

/-- The expansions of R125. -/
def Pseudo.expand : Pseudo → List Instr
  | .discover n => [.discover n]
  | .dfu a => [.enterDfu a]
  | .uid a => [.getIdentity a]
  | .adc a => [.getAdcRaw a]
  | .status a => [.getStatus a]
  | .addr a text => [.setAddress a text]
  | .shuntOn a => [.shuntOn a]
  | .shuntOff a => [.shuntOff a]
  | .get a id => [.getParameter a id]
  | .getAll a => [.getAllParameters a]
  | .set a id v => [.setParameter a id v]
  | .monitor n => [.monitor n]
  | .ping a => [.ping a]
  | .upload => [.blSync, .blGetVersion, .blProgram]
  | .verify => [.blSync, .blGetVersion, .blVerify]

/-- The code of the last result among these records. -/
def lastCode : List HostRecord → Option ResultCode
  | [] => none
  | .result c _ :: rest => (lastCode rest).or (some c)
  | .monitor _ _ :: rest => lastCode rest

/-- Run the operations of an expansion, "each only if the one before returned OK" (R125, R372). An operation that waits
for an event ends the run there (log entry 20). -/
def runSequence : List Instr → State → Host.Outcome State Fault Refusal
  | [], s => .next s
  | i :: rest, s =>
    match exec i s with
    | .next t =>
      if t.opState = .idle ∧ lastCode (outOf t.portLog) = some .ok then runSequence rest t else .next t
    | .fault r => .fault r
    | .refused r => .refused r

/-! ## The notation of R124 -/

/-- One hexadecimal digit. -/
def hexChar (n : Nat) : String :=
  (["0", "1", "2", "3", "4", "5", "6", "7", "8", "9", "A", "B", "C", "D", "E", "F"]).getD (n % 16) "0"

/-- The low `k` hexadecimal digits of a number. -/
def hexText : Nat → Nat → String
  | 0, _ => ""
  | k + 1, n => hexText k (n / 16) ++ hexChar n

/-- A decimal number. -/
def decText (b : Byte) : String := Nat.repr b.toNat

/-- A byte list, `[b0 b1 ...]` in hexadecimal without `0x`. -/
def bytesText (bs : List Byte) : String :=
  "[" ++ String.intercalate " " (bs.map fun b => hexText 2 b.toNat) ++ "]"

/-- Text in double quotes. -/
def quoted (bs : List Byte) : String := "\"" ++ String.ofList (bs.map fun b => Char.ofNat b.toNat) ++ "\""

/-- The line of R124 for an operation; FRAME_TX with a reserved flag bit set has none. -/
def asmText : Instr → Option String
  | .crcClr => some "CRC_CLR"
  | .crcUpd b => some ("CRC_UPD 0x" ++ hexText 2 b.toNat)
  | .frameTx f a c p =>
    if reservedFlags f = 0 then
      some ("FRAME_TX " ++ (if f.getLsbD 7 then "reply" else "req") ++ ", " ++ decText a ++ ", " ++ decText c ++ ", "
        ++ bytesText p)
    else none
  | .frameRx => some "FRAME_RX"
  | .ping a => some ("PING " ++ decText a)
  | .enterDfu a => some ("ENTER_DFU " ++ decText a)
  | .getIdentity a => some ("GET_IDENTITY " ++ decText a)
  | .setAddress a t => some ("SET_ADDRESS " ++ decText a ++ ", " ++ quoted t)
  | .getAdcRaw a => some ("GET_ADC_RAW " ++ decText a)
  | .getStatus a => some ("GET_STATUS " ++ decText a)
  | .shuntOn a => some ("SHUNT_ON " ++ decText a)
  | .shuntOff a => some ("SHUNT_OFF " ++ decText a)
  | .setParameter a id v =>
    some ("SET_PARAMETER " ++ decText a ++ ", " ++ decText id ++ ", 0x" ++ hexText 4 v.toNat)
  | .getParameter a id => some ("GET_PARAMETER " ++ decText a ++ ", " ++ decText id)
  | .discover n => some ("DISCOVER " ++ decText n)
  | .getAllParameters a => some ("GET_ALL_PARAMETERS " ++ decText a)
  | .monitor n => some ("MONITOR " ++ decText n)
  | .blSync => some "BL_SYNC"
  | .blGetVersion => some "BL_GET_VERSION"
  | .blLoadAddress addr => some ("BL_LOAD_ADDRESS 0x" ++ hexText (if addr.toNat < 0x10000 then 4 else 6) addr.toNat)
  | .blWriteBlock d => some ("BL_WRITE_BLOCK " ++ bytesText d.toList)
  | .blReadBlock => some "BL_READ_BLOCK"
  | .blProgram => some "BL_PROGRAM"
  | .blVerify => some "BL_VERIFY"

/-- One event of an RX script (R124): `Byte` as hexadecimal and `TMO` as `TMO`. -/
def eventText : RxEvent → String
  | .byte b => hexText 2 b.toNat
  | .tmo => "TMO"

end Sys2Proof.Machine
end

