-- ==== Sys2Proof/Safety.lean ====
section
/-!
DEFINITION. The terms claims use. First, what holds of the block between steps: the decoder's registers agree with the
bytes it has taken, the timeout select and the session registers agree with the operation that waits, the lists of the
sequencer have the form the spec gives them, and the image is canonical (10_state.md R35 to R41; 42_frame_decoder.md
R194, R203; 60_exceptions.md R374). Then the states that one act of the block leaves, written out register by register;
the events an environment may answer; and what an operation may write and report.
-/

namespace Sys2Proof.Machine

/-- The decoder's registers agree with the bytes taken in this attempt (42_frame_decoder.md R191, R194; R36). -/
def DecoderOk (s : State) : Prop :=
  s.rxHcnt ≤ 4 ∧ s.rxPcnt ≤ 255 ∧
  match s.rxState with
  | .seekPreamble => True
  | .seekSync => True
  | .readHeader => s.rxHcnt < 4 ∧ s.rxPcnt = 0 ∧ s.rxCrc = crc8 s.cfg (s.rxHdr.toList.take s.rxHcnt)
  | .readPayload =>
    s.rxHcnt = 4 ∧ s.rxPcnt < s.rxHdr[3].toNat ∧ s.rxCrc = crc8 s.cfg (s.rxHdr.toList ++ payRead s.rxPcnt s)
  | .readCrc =>
    s.rxHcnt = 4 ∧ s.rxPcnt = s.rxHdr[3].toNat ∧ s.rxCrc = crc8 s.cfg (s.rxHdr.toList ++ payRead s.rxPcnt s)

/-- The setting of `tmo_sel` while an operation waits at this position (R38; R290, R300, R324). -/
def Pos.timeout : Pos → TimeoutSel
  | .reply (.discover _) => .discover
  | .reply (.monitorScan _) => .discover
  | .readN _ _ .writeBlock => .write
  | .readN _ _ (.programWrite _) => .write
  | _ => .normal

/-- The command of the request whose reply is awaited (R37, R230; 30_encoding.md R104). -/
def ReplyPos.command : ReplyPos → Byte
  | .ping _ => 0x01
  | .getIdentity _ => 0x03
  | .setAddress _ _ => 0x04
  | .getAdcRaw _ => 0x05
  | .getStatus _ => 0x06
  | .shuntOn _ => 0x07
  | .shuntOff _ => 0x08
  | .setParameter _ _ _ _ => 0x09
  | .getParameter _ _ _ => 0x0A
  | .discover _ => 0x01
  | .getAll _ _ => 0x0A
  | .monitorScan _ => 0x01
  | .monitorPoll _ _ => 0x06

/-- The number of bytes `RxReadN` reads at this position (45_bootloader.md). -/
def ReadPos.wanted : ReadPos → Nat
  | .versionMinor => 3
  | .versionMajor _ => 3
  | .readBlock => 18
  | .verifyRead _ => 18
  | _ => 2

/-- The scan of R290 stands at the address in `seq_idx`, inside 1..n, and has recorded only addresses before it. -/
def ScanOk (n : Byte) (s : State) : Prop :=
  1 ≤ s.seqIdx.toNat ∧ s.seqIdx.toNat ≤ n.toNat ∧ s.sesAddr = s.seqIdx.setWidth 8 ∧
    ∀ x ∈ s.seqPresent, x.toNat < s.seqIdx.toNat

/-- What the registers hold while an operation waits at a position, and in IDLE (R35, R37, R38, R40; R374). -/
def OperationOk (s : State) : Prop :=
  match s.opState with
  | .idle => s.rxState = .seekPreamble ∧ s.tmoSel = .normal
  | .busy p =>
    s.tmoSel = p.timeout ∧
    match p with
    | .frameRx => True
    | .monitorPause => s.rxState = .seekPreamble
    | .passAgain _ => s.rxState = .seekPreamble
    | .readN want got k => s.rxState = .seekPreamble ∧ want = k.wanted ∧ got.length < want
    | .reply k =>
      s.sesCmd = k.command ∧
      match k with
      | .discover n => ScanOk n s
      | .monitorScan n => ScanOk n s
      | .ping a => s.sesAddr = a
      | .getIdentity a => s.sesAddr = a
      | .setAddress a uid => s.sesAddr = a ∧ s.sesReq = uid.toList
      | .getAdcRaw a => s.sesAddr = a
      | .getStatus a => s.sesAddr = a
      | .shuntOn a => s.sesAddr = a
      | .shuntOff a => s.sesAddr = a
      | .setParameter a _ _ pl => s.sesAddr = a ∧ s.sesReq = pl
      | .getParameter a id _ => s.sesAddr = a ∧ s.sesReq = [id]
      | .getAll a d => s.sesAddr = a ∧ s.sesReq = [d.id]
      | .monitorPoll a _ => s.sesAddr = a

/-- The state of the block between steps is one the spec allows. -/
structure BlockInv (s : State) : Prop where
  /-- R36, R194. -/
  decoder : DecoderOk s
  /-- R35, R37, R38, R40, R374. -/
  operation : OperationOk s
  /-- `seq_present` is in ascending order and address 0 is never scanned (R41, R290). -/
  presentAscending : s.seqPresent.Pairwise fun x y => x.toNat < y.toNat
  presentNotZero : ∀ x ∈ s.seqPresent, x ≠ 0
  /-- `bl_retry` is in 0..SYNC_ATTEMPTS (R39). -/
  retryBound : s.blRetry ≤ s.cfg.syncAttempts
  /-- `ses_req` has 0..255 bytes (R37). -/
  requestBound : s.sesReq.length ≤ 255
  /-- The image is in canonical form (20_memory.md R76; log entry 7). -/
  imageCanonical : s.image.wf = true

/-- The port events between an earlier state and a later one of the same run. -/
def newEvents (s t : State) : List PortEvent := t.portLog.drop s.portLog.length

/-! ## States after one thing the block did, register by register -/

/-- An operation ended with this result (R370, R40). -/
def ended (code : ResultCode) (data : ResultData) (s : State) : State :=
  { s with opState := .idle, portLog := s.portLog ++ [.out (.result code data)] }

/-- The request of an exchange was sent (43_command_protocol.md R230). -/
def requested (a c : Byte) (pl : List Byte) (s : State) : State :=
  { s with
    sesAddr := a
    sesCmd := c
    sesReq := pl
    portLog := s.portLog ++ (frameBytes s.cfg ⟨a, c, false, pl⟩).map .tx }

/-- An operation runs on at this position (R40). -/
def running (p : Pos) (s : State) : State := { s with opState := .busy p }

/-- The events before `rest` were taken (R32). -/
def readUpTo (rest : List RxEvent) (s : State) : State := { s with rx := rest }

/-- The payload buffer after bytes were written from index `i` on (42_frame_decoder.md R191). -/
def payFill (v : Vector Byte 255) (i : Nat) : List Byte → Vector Byte 255
  | [] => v
  | b :: bs => payFill (v.setIfInBounds i b) (i + 1) bs

/-- A decode attempt took the bytes of a frame with this header and payload, to its end (R191, R194, R203). -/
def tookFrame (hdr : Vector Byte 4) (pl bytes : List Byte) (rest : List RxEvent) (s : State) : State :=
  { s with
    rxState := .seekPreamble
    rxHdr := hdr
    rxHcnt := 4
    rxPay := payFill s.rxPay 0 pl
    rxPcnt := pl.length
    rxCrc := crc8 s.cfg (hdr.toList ++ pl)
    rx := rest
    portLog := s.portLog ++ bytes.map fun b => .rx (.byte b) }

/-- A decode attempt took the frame of packet `q` (41_frame_encoder.md R170, R174). -/
def received (q : Packet) (rest : List RxEvent) (s : State) : State :=
  tookFrame #v[flagsByte s.cfg q.isReply, q.address, q.command, BitVec.ofNat 8 q.payload.length] q.payload
    (frameBytes s.cfg q) rest s

/-- A decode attempt took a `TMO` (R193). -/
def timedOut (rest : List RxEvent) (s : State) : State :=
  { s with rxState := .seekPreamble, rx := rest, portLog := s.portLog ++ [.rx .tmo] }

/-! ## What an environment answers -/

/-- The bytes the CRC of a frame covers (30_encoding.md R103). -/
def bodyBytes (f a c : Byte) (pl : List Byte) : List Byte := [f, a, c, BitVec.ofNat 8 pl.length] ++ pl

/-- The bytes of a frame with this header, payload and CRC byte (R100, R102). -/
def framed (f a c : Byte) (pl : List Byte) (crc : Byte) : List Byte :=
  [0x55, 0x55, 0x55, 0x55, 0xF0] ++ bodyBytes f a c pl ++ [crc]

/-- What ends the wait for a reply (43_command_protocol.md R231, R233). -/
inductive Answer where
  /-- the matching reply frame, with this payload (R238) -/
  | reply (pl : List Byte)
  /-- a `TMO` before any byte of a frame -/
  | timeout
  /-- any frame whose CRC byte is wrong, under `CRC_ENDS_WAIT` -/
  | discarded (f a c : Byte) (pl : List Byte) (crc : Byte)

/-- The payload of the reply, if the answer is one. -/
def Answer.payload : Answer → Option (List Byte)
  | .reply pl => some pl
  | .timeout => none
  | .discarded _ _ _ _ _ => none

/-- The events of the answer to a request `(a, c)`. -/
def answerEvents (cfg : Config) (a c : Byte) : Answer → List RxEvent
  | .reply pl => (frameBytes cfg ⟨a, c, true, pl⟩).map .byte
  | .timeout => [.tmo]
  | .discarded f x y pl crc => (framed f x y pl crc).map .byte

/-- The state after such an answer was taken. -/
def answered (a c : Byte) (ans : Answer) (rest : List RxEvent) (s : State) : State :=
  match ans with
  | .reply pl => received ⟨a, c, true, pl⟩ rest s
  | .timeout => timedOut rest s
  | .discarded f x y pl crc =>
    tookFrame #v[f, x, y, BitVec.ofNat 8 pl.length] pl (framed f x y pl crc) rest s

/-- The answer is one: its payload fits its frame (41_frame_encoder.md R173), and a discarded frame has a wrong CRC byte
under `CRC_ENDS_WAIT` (R233). -/
def AnswerFits (cfg : Config) : Answer → Prop
  | .reply pl => pl.length ≤ 255
  | .timeout => True
  | .discarded f x y pl crc => cfg.crcEndsWait = true ∧ pl.length ≤ 255 ∧ crc ≠ crc8 cfg (bodyBytes f x y pl)

/-- The events that make `RxReadN(want)` return the bytes `r` (00_scope.md R12): `want` bytes, or fewer and then a
`TMO`. -/
def readEvents (want : Nat) (r : List Byte) : List RxEvent :=
  r.map .byte ++ if r.length < want then [.tmo] else []

/-- The reply `14 10` (30_encoding.md R106, 45_bootloader.md R323). -/
def ackReply : List Byte := [0x14, 0x10]

/-- The accepted reply of BL_READ_BLOCK that brings the block `d` (30_encoding.md R108). -/
def blockReply (d : Vector Byte 16) : List Byte := [0x14] ++ d.toList ++ [0x10]

/-- A bootloader exchange at the ports: the request's bytes, then the events that bring the reply `r`. -/
def bootLog (req : List Byte) (want : Nat) (r : List Byte) : List PortEvent :=
  req.map .tx ++ (readEvents want r).map .rx

/-! ## What an operation may write and report -/

/-- The registers of 10_state.md R34 to R41, grouped as the operations' "Flags/state written" lines name them, and the two
input ports that reading changes. -/
inductive Register where
  | crcAcc
  | decoder
  | rxPort
  | session
  | timeout
  | cursor
  | cursorValid
  | data
  | retry
  | index
  | present
  | results
  | mismatch
  | stopPort

/-- The register has the same value in both states. -/
def Register.same (s t : State) : Register → Prop
  | .crcAcc => t.crcAcc = s.crcAcc
  | .decoder =>
    t.rxState = s.rxState ∧ t.rxHdr = s.rxHdr ∧ t.rxHcnt = s.rxHcnt ∧ t.rxPay = s.rxPay ∧ t.rxPcnt = s.rxPcnt ∧
      t.rxCrc = s.rxCrc
  | .rxPort => t.rx = s.rx
  | .session => t.sesAddr = s.sesAddr ∧ t.sesCmd = s.sesCmd ∧ t.sesReq = s.sesReq
  | .timeout => t.tmoSel = s.tmoSel
  | .cursor => t.blCursor = s.blCursor
  | .cursorValid => t.blCursorValid = s.blCursorValid
  | .data => t.blData = s.blData
  | .retry => t.blRetry = s.blRetry
  | .index => t.seqIdx = s.seqIdx
  | .present => t.seqPresent = s.seqPresent
  | .results => t.seqResults = s.seqResults
  | .mismatch => t.seqMismatch = s.seqMismatch
  | .stopPort => t.stop = s.stop ∧ t.stopNext = s.stopNext

/-- Which registers the operation with this opcode may write (the "Flags/state written" lines of 40_crc8.md to
45_bootloader.md). -/
def mayWrite (op : Byte) : Register → Bool
  | .crcAcc => op.toNat ∈ [0x00, 0x01]
  | .decoder => op.toNat ∈ [0x04, 0x11, 0x13, 0x14, 0x15, 0x16, 0x17, 0x18, 0x19, 0x1A, 0x20, 0x21, 0x22]
  | .rxPort =>
    op.toNat ∈ [0x04, 0x11, 0x13, 0x14, 0x15, 0x16, 0x17, 0x18, 0x19, 0x1A, 0x20, 0x21, 0x22, 0x30, 0x31, 0x32, 0x33, 0x34,
      0x35, 0x36]
  | .session => op.toNat ∈ [0x11, 0x12, 0x13, 0x14, 0x15, 0x16, 0x17, 0x18, 0x19, 0x1A, 0x20, 0x21, 0x22]
  | .timeout => op.toNat ∈ [0x20, 0x22, 0x33, 0x35]
  | .cursor => op.toNat ∈ [0x32, 0x35, 0x36]
  | .cursorValid => op.toNat ∈ [0x32, 0x33, 0x34, 0x35, 0x36]
  | .data => op.toNat ∈ [0x33, 0x34, 0x35, 0x36]
  | .retry => op.toNat ∈ [0x30]
  | .index => op.toNat ∈ [0x20, 0x21, 0x22, 0x35, 0x36]
  | .present => op.toNat ∈ [0x20, 0x22]
  | .results => op.toNat ∈ [0x21]
  | .mismatch => op.toNat ∈ [0x36]
  | .stopPort => op.toNat ∈ [0x22]

/-- What no operation writes, and what its opcode does not let it write, is unchanged. -/
def WritesOnly (op : Byte) (s t : State) : Prop :=
  t.cfg = s.cfg ∧ t.image = s.image ∧ t.hostIn = s.hostIn ∧ ∀ g, mayWrite op g = false → g.same s t

/-- The result codes of an operation (60_exceptions.md R371; `OK` is every operation's). -/
def codesOf (op : Byte) : List ResultCode :=
  if op.toNat ∈ [0x03] then [.ok, .badInput]
  else if op.toNat ∈ [0x04] then [.ok, .noPacket]
  else if op.toNat ∈ [0x11, 0x17, 0x18] then [.ok, .noResponse]
  else if op.toNat ∈ [0x13, 0x15, 0x16] then [.ok, .noResponse, .badReply]
  else if op.toNat ∈ [0x14, 0x19] then [.ok, .badInput, .noResponse, .badReply]
  else if op.toNat ∈ [0x1A] then [.ok, .badInput, .noResponse, .paramMismatch]
  else if op.toNat ∈ [0x20, 0x22] then [.ok, .badInput]
  else if op.toNat ∈ [0x30] then [.ok, .syncFailed]
  else if op.toNat ∈ [0x31, 0x33, 0x34, 0x35] then [.ok, .blBadAck]
  else if op.toNat ∈ [0x32] then [.ok, .badInput, .blBadAck]
  else if op.toNat ∈ [0x36] then [.ok, .verifyMismatch]
  else [.ok]

/-- The event is an operation's final result. -/
def isResult : PortEvent → Bool
  | .out (.result _ _) => true
  | _ => false

/-- Between `s` and `t` the operation with this opcode either ended, with one result of its codes as the last event, or
still runs, with no result yet. -/
def Reports (op : Byte) (s t : State) : Prop :=
  ∃ evs, t.portLog = s.portLog ++ evs ∧
    ((t.opState = .idle ∧
        ∃ before code data,
          evs = before ++ [.out (.result code data)] ∧ before.any isResult = false ∧ code ∈ codesOf op) ∨
      ∃ p, t.opState = .busy p ∧ p.opcode = op ∧ evs.any isResult = false)

end Sys2Proof.Machine
end

