-- ==== Sys2Proof/Certificates/Slice0/Obligations.lean ====
section
/-!
DEFINITION. The statements for the provers, and the words they are written in. Each docstring names the rules of spec/
that a statement formalises.
-/

namespace Sys2Proof.Claims

open Sys2Proof Sys2Proof.Machine

/-! ## Words of the statements: operations and requests -/

/-- Host operations one after another, each from the state the one before left (20_memory.md R82). -/
def execAll : List Instr → State → Host.Outcome State Fault Refusal
  | [], s => .next s
  | i :: rest, s =>
    match exec i s with
    | .next t => execAll rest t
    | .fault f => .fault f
    | .refused r => .refused r

/-- The request `(address, command, payload)` of each command that awaits a reply (30_encoding.md R104;
43_command_protocol.md R240 to R249); `none` where the operation sends no single request, or refuses its operands. -/
def requestOf (cfg : Config) : Instr → Option (Byte × Byte × List Byte)
  | .ping a => some (a, 0x01, [])
  | .getIdentity a => some (a, 0x03, [])
  | .setAddress a text => (parseUid text).map fun uid => (a, 0x04, uid.toList)
  | .getAdcRaw a => some (a, 0x05, [])
  | .getStatus a => some (a, 0x06, [])
  | .shuntOn a => some (a, 0x07, [])
  | .shuntOff a => some (a, 0x08, [])
  | .setParameter a id v =>
    match paramWidth cfg id with
    | some .one => if v.toNat ≤ 0xFF then some (a, 0x09, [id, lo8 v]) else none
    | some .two => some (a, 0x09, [id, lo8 v, hi8 v])
    | none => none
  | .getParameter a id => (paramWidth cfg id).map fun _ => (a, 0x0A, [id])
  | _ => none

/-- The target address of a single command whose reply is awaited; `none` inside a session sequence. -/
def commandTarget : ReplyPos → Option Byte
  | .ping a => some a
  | .getIdentity a => some a
  | .setAddress a _ => some a
  | .getAdcRaw a => some a
  | .getStatus a => some a
  | .shuntOn a => some a
  | .shuntOff a => some a
  | .setParameter a _ _ _ => some a
  | .getParameter a _ _ => some a
  | .discover _ => none
  | .getAll _ _ => none
  | .monitorScan _ => none
  | .monitorPoll _ _ => none

/-- An ASCII hexadecimal digit of either case and its value (43_command_protocol.md R250). -/
def HexValue (c : Byte) (n : Nat) : Prop :=
  (0x30 ≤ c.toNat ∧ c.toNat ≤ 0x39 ∧ n + 0x30 = c.toNat) ∨
  (0x41 ≤ c.toNat ∧ c.toNat ≤ 0x46 ∧ n + 0x37 = c.toNat) ∨
  (0x61 ≤ c.toNat ∧ c.toNat ≤ 0x66 ∧ n + 0x57 = c.toNat)

/-- What the reply payload `q` of GET_PARAMETER says about id and width (R249, R295). -/
def paramReading (id : Byte) (w : ParamWidth) (q : List Byte) : Option Word16 :=
  if q.length = 1 + widthBytes w ∧ q.getD 0 0 = id then
    some (match w with
      | .one => le16 (q.getD 1 0) 0x00
      | .two => le16 (q.getD 1 0) (q.getD 2 0))
  else none

/-- The outcome of one GET_STATUS exchange in MONITOR (44_session_sequences.md R300, by R245). -/
def pollOutcome (cfg : Config) : Option (List Byte) → StatusOutcome
  | some [q0, q1, q2, q3, q4] => .reading ⟨le16 q0 q1, (le16 q2 q3).toInt, shuntReport cfg q4⟩
  | some q => .badReply q
  | none => .noResponse

/-! ## Words of the statements: the session sequences -/

/-- The environment of a scan from address `a` on: its answer to each PING in turn (44_session_sequences.md R290). -/
def scanEvents (cfg : Config) : Nat → List Answer → List RxEvent
  | _, [] => []
  | a, ans :: l => answerEvents cfg (BitVec.ofNat 8 a) 0x01 ans ++ scanEvents cfg (a + 1) l

/-- The exchanges of a scan from address `a` on, with these answers, and the list of the addresses that answered
(R290). -/
def scanned : Nat → List Answer → State → State
  | _, [], s => s
  | a, ans :: l, s =>
    let u := answered (BitVec.ofNat 8 a) 0x01 ans [] (requested (BitVec.ofNat 8 a) 0x01 [] s)
    scanned (a + 1) l { u with seqPresent := u.seqPresent ++ if ans.payload.isSome then [BitVec.ofNat 8 a] else [] }

/-- The addresses that answered a scan from address `a` on, in ascending order. -/
def scanPresent : Nat → List Answer → List Byte
  | _, [] => []
  | a, ans :: l => (if ans.payload.isSome then [BitVec.ofNat 8 a] else []) ++ scanPresent (a + 1) l

/-- The environment of a polling round: each node's answer to GET_STATUS (R300). -/
def pollEvents (cfg : Config) (polls : List (Byte × Answer)) : List RxEvent :=
  polls.flatMap fun p => answerEvents cfg p.1 0x06 p.2

/-- The exchanges of a polling round, with these answers: request, answer, record, per node (R300). -/
def polled : List (Byte × Answer) → State → State
  | [], s => s
  | (a, ans) :: l, s =>
    let u := answered a 0x06 ans [] (requested a 0x06 [] s)
    polled l { u with portLog := u.portLog ++ [.out (.monitor a (pollOutcome u.cfg ans.payload))] }

/-- The end of a polling round at which `STOP` has this level (R300; log entry 14). -/
def afterRound (level : Bool) (s : State) : State :=
  let u := { s with stop := level, stopNext := s.stopNext.tail, portLog := s.portLog ++ [.stop level] }
  if level then ended .ok (.addresses s.seqPresent) u else running .monitorPause u

/-- The record of one registry entry (R295). -/
def paramRecord (d : ParamDescriptor) (ans : Answer) : ParamRecord :=
  ⟨d.id, d.name,
    match ans.payload with
    | none => .noResponse
    | some q =>
      match paramReading d.id d.width q with
      | some v => .value v
      | none => .mismatch q⟩

/-- The exchanges of a listing, with these answers, and the records (R295). -/
def listed (a : Byte) : List (ParamDescriptor × Answer) → State → State
  | [], s => s
  | (d, ans) :: l, s =>
    let u := answered a 0x0A ans [] (requested a 0x0A [d.id] s)
    listed a l { u with seqResults := u.seqResults ++ [paramRecord d ans] }

/-- `SetTimeout(sel)` (00_scope.md R12, 10_state.md R38). -/
def selected (sel : TimeoutSel) (s : State) : State := { s with tmoSel := sel, portLog := s.portLog ++ [.tmoSel sel] }

/-! ## Words of the statements: the bootloader -/

/-- The bases below `boundary` whose window is not blank, in ascending order (45_bootloader.md R326). -/
def dataWindows (img : Memory) (boundary : Nat) : List Nat :=
  ((List.range (boundary / 16)).map (16 * ·)).filter fun b => !(window img b).toList.all (· == 0xFF)

/-- BL_LOAD_ADDRESS of a window's base, answered by `r` (R322). -/
def loadedWindow (b : Nat) (r : List Byte) (s : State) : State :=
  { s with
    blCursor := if r = ackReply then BitVec.ofNat 16 (b / 2) else s.blCursor
    blCursorValid := decide (r = ackReply)
    portLog := s.portLog ++ bootLog (loadAddressRequest s.cfg.stk (BitVec.ofNat 16 (b / 2))) 2 r }

/-- BL_WRITE_BLOCK of a block, answered by `r` (R324). -/
def wroteBlock (d : Vector Byte 16) (r : List Byte) (s : State) : State :=
  { s with
    blData := d
    tmoSel := .normal
    blCursorValid := false
    portLog := s.portLog ++ [.tmoSel .write] ++ bootLog (progPageRequest s.cfg.stk d) 2 r ++ [.tmoSel .normal] }

/-- BL_READ_BLOCK answered by the block `d` (R325). -/
def readBlock (d : Vector Byte 16) (s : State) : State :=
  { s with
    blData := d
    blCursorValid := false
    portLog := s.portLog ++ bootLog (readPageRequest s.cfg.stk) 18 (blockReply d) }

/-- BL_READ_BLOCK answered by anything else (R325). -/
def readBlockFailed (r : List Byte) (s : State) : State :=
  { s with blCursorValid := false, portLog := s.portLog ++ bootLog (readPageRequest s.cfg.stk) 18 r }

/-- The pass stands at this window base (10_state.md R41). -/
def atWindow (b : Nat) (s : State) : State := { s with seqIdx := BitVec.ofNat 32 b }

/-- Every one of these windows loaded and written, each acknowledged (R327). -/
def programmed (ws : List Nat) (s : State) : State :=
  ws.foldl (fun t b => wroteBlock (window s.image b) ackReply (loadedWindow b ackReply t)) s

/-- The acknowledgements of these windows' exchanges. -/
def programAcks (ws : List Nat) : List RxEvent := ws.flatMap fun _ => readEvents 2 ackReply ++ readEvents 2 ackReply

/-- What the node answers for one window of the verify pass (R328). -/
inductive WindowReply where
  | loadFailed (r : List Byte)
  | readFailed (r : List Byte)
  | readBack (d : Vector Byte 16)

/-- The bytes are ones the exchange can read, and are no acceptable reply where the answer says so. -/
def WindowReply.fits : WindowReply → Prop
  | .loadFailed r => r.length ≤ 2 ∧ r ≠ ackReply
  | .readFailed r => r.length ≤ 18 ∧ ∀ d, r ≠ blockReply d
  | .readBack _ => True

/-- The events of the answer. -/
def WindowReply.events : WindowReply → List RxEvent
  | .loadFailed r => readEvents 2 r
  | .readFailed r => readEvents 2 ackReply ++ readEvents 18 r
  | .readBack d => readEvents 2 ackReply ++ readEvents 18 (blockReply d)

/-- The window fails verification (R328). -/
def WindowReply.fails (win : Vector Byte 16) : WindowReply → Bool
  | .loadFailed _ => true
  | .readFailed _ => true
  | .readBack d => d != win

/-- The registers and ports after one window of the verify pass (R328). -/
def WindowReply.after (b : Nat) (s : State) : WindowReply → State
  | .loadFailed r => loadedWindow b r s
  | .readFailed r => readBlockFailed r (loadedWindow b ackReply s)
  | .readBack d => readBlock d (loadedWindow b ackReply s)

/-! ## Words of the statements: reset -/

/-- The values of 10_state.md R50, for every register to which it gives one. -/
def HoldsResetValues (s : State) : Prop :=
  s.crcAcc = 0x00 ∧ s.rxState = .seekPreamble ∧ s.rxHcnt = 0 ∧ s.rxPcnt = 0 ∧ s.rxCrc = 0x00 ∧
    s.sesAddr = 0x00 ∧ s.sesCmd = 0x00 ∧ s.sesReq = [] ∧ s.tmoSel = .normal ∧
    s.blCursor = 0x0000 ∧ s.blCursorValid = false ∧ s.blData = Vector.replicate 16 0xFF ∧ s.blRetry = 0 ∧
    s.opState = .idle ∧ s.seqIdx = 0 ∧ s.seqPresent = [] ∧ s.seqResults = [] ∧ s.seqMismatch = []

end Sys2Proof.Claims

open Sys2Proof Sys2Proof.Machine Sys2Proof.Claims

/-! ## The CRC unit -/

/-- 40_crc8.md R157, points 1 and 2: a step depends on the XOR alone, is linear, and is one-to-one. -/
def Obligations.CrcStepLinearOneToOne : Prop :=
  ∀ (cfg : Config) (a b c d : Byte),
    crc8Step cfg a b = crc8Step cfg 0x00 (a ^^^ b) ∧
    crc8Step cfg 0x00 (a ^^^ b) = crc8Step cfg 0x00 a ^^^ crc8Step cfg 0x00 b ∧
    (crc8Step cfg a b = crc8Step cfg c d → a ^^^ b = c ^^^ d)

/-- R153. -/
def Obligations.CrcClearSetsZero : Prop :=
  ∀ s : State, exec .crcClr s = .next (ended .ok (.byte 0x00) { s with crcAcc := 0x00 })

/-- R154, with R152's worked step and R154's example as values. -/
def Obligations.CrcUpdateAccumulates : Prop :=
  (∀ (b : Byte) (s : State),
    exec (.crcUpd b) s = .next (ended .ok (.byte (crc8Step s.cfg s.crcAcc b)) { s with crcAcc := crc8Step s.cfg s.crcAcc b })) ∧
  (∀ (bs : List Byte) (s : State), ∃ t, execAll (.crcClr :: bs.map .crcUpd) s = .next t ∧ t.crcAcc = crc8 s.cfg bs) ∧
  ∀ cfg : Config, crc8Step cfg 0x00 0x80 = 0x89 ∧ crc8 cfg [0x00, 0x01, 0x02, 0x03, 0x04] = 0xE3

/-- R155, with the decision of a receiver that tests for zero (R195), and R156. -/
def Obligations.CrcSelfCheckAndLeadingZero : Prop :=
  ∀ (cfg : Config) (bs : List Byte) (k : Byte),
    crc8 cfg (bs ++ [crc8 cfg bs]) = 0x00 ∧ (crc8 cfg (bs ++ [k]) = 0x00 ↔ k = crc8 cfg bs) ∧
    crc8 cfg ([0x00] ++ bs) = crc8 cfg bs ∧ crc8 cfg [] = 0x00

/-- R157, point 3. -/
def Obligations.CrcDetectsOneByteError : Prop :=
  ∀ (cfg : Config) (before after : List Byte) (x y : Byte), x ≠ y →
    crc8 cfg (before ++ [x] ++ after) ≠ crc8 cfg (before ++ [y] ++ after)

/-! ## The framer and the deframer -/

/-- 41_frame_encoder.md R170, R173; 30_encoding.md R100, R103. -/
def Obligations.EncodeLayout : Prop :=
  ∀ (cfg : Config) (p : Packet),
    (p.payload.length ≤ 255 →
      encodeFrame cfg p = some ([0x55, 0x55, 0x55, 0x55, 0xF0] ++
        bodyBytes (if p.isReply then 0x80 else 0x00) p.address p.command p.payload ++
        [crc8 cfg (bodyBytes (if p.isReply then 0x80 else 0x00) p.address p.command p.payload)]) ∧
      (frameBytes cfg p).length = 10 + p.payload.length ∧ encodeFrame cfg p = some (frameBytes cfg p)) ∧
    (255 < p.payload.length → encodeFrame cfg p = none)

/-- R172. -/
def Obligations.FrameTxOutcome : Prop :=
  ∀ (f a c : Byte) (pl : List Byte) (s : State), pl.length ≤ 255 →
    exec (.frameTx f a c pl) s = .next (
      if f &&& 0x7F ≠ 0x00 then ended .badInput (.byte f) s
      else ended .ok (.count (10 + pl.length))
        { s with portLog := s.portLog ++ (frameBytes s.cfg ⟨a, c, f.getLsbD 7, pl⟩).map .tx })

/-- R173, over the ill-formed terms that no host bytes encode; the record's data is the model's choice (log entry 21). -/
def Obligations.OversizedPayloadRefused : Prop :=
  ∀ (f a c : Byte) (pl : List Byte) (s : State), 255 < pl.length → f &&& 0x7F = 0x00 →
    exec (.frameTx f a c pl) s = .next (ended .badInput (.bytes pl) s)

/-- 42_frame_decoder.md R191 to R196, R203 to R206: one decode attempt over garbage without 0x55, a preamble of any
length, any header (reserved flag bits included), its payload and any CRC byte. -/
def Obligations.FrameRxDecodesFrame : Prop :=
  ∀ (garbage : List Byte) (n : Nat) (f a c : Byte) (pl : List Byte) (k : Byte) (rest : List RxEvent) (s : State),
    s.rxState = .seekPreamble → (∀ b ∈ garbage, b ≠ 0x55) → pl.length ≤ 255 →
    ∀ bytes, bytes = garbage ++ List.replicate (n + 1) 0x55 ++ [0xF0] ++ bodyBytes f a c pl ++ [k] →
    s.rx = bytes.map .byte ++ rest →
    exec .frameRx s = .next (
      (if k = crc8 s.cfg (bodyBytes f a c pl) then ended .ok (.packet ⟨a, c, f.getLsbD 7, pl⟩)
        else ended .noPacket (.reason .crc))
      (tookFrame #v[f, a, c, BitVec.ofNat 8 pl.length] pl bytes rest s))

/-- 41_frame_encoder.md R174. -/
def Obligations.FrameRoundTrip : Prop :=
  ∀ (p : Packet) (bytes : List Byte) (rest : List RxEvent) (s : State),
    encodeFrame s.cfg p = some bytes → (s.rxState = .seekPreamble ∨ s.rxState = .seekSync) →
    s.rx = bytes.map .byte ++ rest →
    exec .frameRx s = .next (ended .ok (.packet p) (received p rest s))

/-- R208, the row of the flags, address, command, payload and CRC bytes, for every change of one such byte. -/
def Obligations.OneByteErrorIsDiscarded : Prop :=
  ∀ (p : Packet) (bytes : List Byte) (j : Nat) (b : Byte) (rest : List RxEvent) (s : State),
    encodeFrame s.cfg p = some bytes → 5 ≤ j → j < bytes.length → j ≠ 8 → bytes.getD j 0 ≠ b →
    s.rxState = .seekPreamble → s.rx = (bytes.set j b).map .byte ++ rest →
    ∃ t, exec .frameRx s = .next t ∧ t.opState = .idle ∧ t.rxState = .seekPreamble ∧ t.rx = rest ∧
      newEvents s t = (bytes.set j b).map (fun x => .rx (.byte x)) ++ [.out (.result .noPacket (.reason .crc))]

/-- R193, with the outcome FRAME_RX reports (R190, R204), whatever the attempt had taken before. -/
def Obligations.TimeoutEndsDecodeAttempt : Prop :=
  ∀ (rest : List RxEvent) (s : State), s.opState = .busy .frameRx → s.rx = .tmo :: rest →
    step s = .next (ended .noPacket (.reason (if s.rxState = .seekPreamble then .timeout else .short)) (timedOut rest s))

/-- R192: after a preamble, a byte that is neither 0x55 nor 0xF0 ends the attempt and is consumed. -/
def Obligations.FramingErrorConsumesByte : Prop :=
  ∀ (n : Nat) (b : Byte) (rest : List RxEvent) (s : State),
    s.rxState = .seekPreamble → b ≠ 0x55 → b ≠ 0xF0 →
    s.rx = (List.replicate (n + 1) 0x55 ++ [b]).map .byte ++ rest →
    exec .frameRx s = .next (ended .noPacket (.reason .framing)
      { s with
        rx := rest
        portLog := s.portLog ++ (List.replicate (n + 1) 0x55 ++ [b]).map fun x => .rx (.byte x) })

/-- R192, R404: in `SEEK_PREAMBLE` every byte but 0x55 is discarded, in every operation that runs the decoder. -/
def Obligations.GarbageIsSkipped : Prop :=
  ∀ (garbage : List Byte) (rest : List RxEvent) (s : State),
    (s.opState = .busy .frameRx ∨ ∃ k, s.opState = .busy (.reply k)) → s.rxState = .seekPreamble →
    (∀ b ∈ garbage, b ≠ 0x55) → s.rx = garbage.map .byte ++ rest →
    step s = step { s with rx := rest, portLog := s.portLog ++ garbage.map fun b => .rx (.byte b) }

/-- R209: two frames back to back are decoded by two attempts. -/
def Obligations.FramesBackToBack : Prop :=
  ∀ (p q : Packet) (rest : List RxEvent) (s : State),
    p.payload.length ≤ 255 → q.payload.length ≤ 255 → s.rxState = .seekPreamble →
    s.rx = (frameBytes s.cfg p ++ frameBytes s.cfg q).map .byte ++ rest →
    execAll [.frameRx, .frameRx] s = .next (ended .ok (.packet q) (received q rest
      (ended .ok (.packet p) (received p ((frameBytes s.cfg q).map .byte ++ rest) s))))

/-! ## The exchange and the matcher -/

/-- 43_command_protocol.md R230, R235; 10_state.md R33; 20_memory.md R82: every command that awaits a reply writes its
whole request, then waits; with no event to read it stays there. That a wait for an event is a state in which the step
changes nothing is the model's reading (log entry 2). -/
def Obligations.RequestThenWait : Prop :=
  ∀ (i : Instr) (s : State) (a c : Byte) (pl : List Byte), requestOf s.cfg i = some (a, c, pl) →
    ∃ k : ReplyPos, k.opcode = opcodeOf i ∧
      exec i s = step (running (.reply k) (requested a c pl s)) ∧
      (s.rx = [] → exec i s = .next (running (.reply k) (requested a c pl s)))

/-- R232, R236: a packet that does not match changes only the decoder's registers, and the wait goes on. -/
def Obligations.NoiseIsIgnored : Prop :=
  ∀ (k : ReplyPos) (q : Packet) (rest : List RxEvent) (s : State),
    s.opState = .busy (.reply k) → s.rxState = .seekPreamble → q.payload.length ≤ 255 →
    ¬ (q.address = s.sesAddr ∧ q.command = s.sesCmd ∧ q.isReply = true) →
    s.rx = (frameBytes s.cfg q).map .byte ++ rest →
    step s = step (received q rest s)

/-- R234. -/
def Obligations.FramingErrorKeepsWait : Prop :=
  ∀ (k : ReplyPos) (n : Nat) (b : Byte) (rest : List RxEvent) (s : State),
    s.opState = .busy (.reply k) → s.rxState = .seekPreamble → b ≠ 0x55 → b ≠ 0xF0 →
    s.rx = (List.replicate (n + 1) 0x55 ++ [b]).map .byte ++ rest →
    step s = step { s with
      rx := rest
      portLog := s.portLog ++ (List.replicate (n + 1) 0x55 ++ [b]).map fun x => .rx (.byte x) }

/-- R233: a frame with a wrong CRC byte ends the wait of a command with NO_RESPONSE if `CRC_ENDS_WAIT`, else every wait
goes on. -/
def Obligations.CrcErrorDuringWait : Prop :=
  ∀ (f x y : Byte) (q : List Byte) (crc : Byte) (rest : List RxEvent) (s : State),
    q.length ≤ 255 → crc ≠ crc8 s.cfg (bodyBytes f x y q) → s.rxState = .seekPreamble →
    ∀ bytes, bytes = framed f x y q crc → s.rx = bytes.map .byte ++ rest →
    (s.cfg.crcEndsWait = true → ∀ i a c pl, requestOf s.cfg i = some (a, c, pl) →
      exec i s = .next (ended .noResponse (.byte a)
        (tookFrame #v[f, x, y, BitVec.ofNat 8 q.length] q bytes rest (requested a c pl s)))) ∧
    (s.cfg.crcEndsWait = false → ∀ k : ReplyPos, s.opState = .busy (.reply k) →
      step s = step (tookFrame #v[f, x, y, BitVec.ofNat 8 q.length] q bytes rest s))

/-- R231, R193: a `TMO` ends the wait for a reply in every state of the decoder, in the middle of a frame (`NP(SHORT)`)
as before its first byte (`NP(TIMEOUT)`): a command ends with NO_RESPONSE, and every exchange, those of the sequences
among them, goes on as after a `TMO` in `SEEK_PREAMBLE`. -/
def Obligations.TimeoutEndsReplyWait : Prop :=
  ∀ (k : ReplyPos) (rest : List RxEvent) (s : State), s.opState = .busy (.reply k) → s.rx = .tmo :: rest →
    (∀ a, commandTarget k = some a → step s = .next (ended .noResponse (.byte a) (timedOut rest s))) ∧
    step s = step { s with rxState := .seekPreamble }

/-! ## The commands -/

/-- R240. -/
def Obligations.PingOutcome : Prop :=
  ∀ (a : Byte) (ans : Answer) (rest : List RxEvent) (s : State),
    AnswerFits s.cfg ans → s.rxState = .seekPreamble → s.rx = answerEvents s.cfg a 0x01 ans ++ rest →
    exec (.ping a) s = .next ((match ans.payload with
      | none => ended .noResponse (.byte a)
      | some _ => ended .ok (.byte a)) (answered a 0x01 ans rest (requested a 0x01 [] s)))

/-- R246, R247. -/
def Obligations.ShuntOutcomes : Prop :=
  ∀ (a : Byte) (ans : Answer) (rest : List RxEvent) (s : State), AnswerFits s.cfg ans → s.rxState = .seekPreamble →
    (s.rx = answerEvents s.cfg a 0x07 ans ++ rest →
      exec (.shuntOn a) s = .next ((match ans.payload with
        | none => ended .noResponse (.byte a)
        | some _ => ended .ok (.byte a)) (answered a 0x07 ans rest (requested a 0x07 [] s)))) ∧
    (s.rx = answerEvents s.cfg a 0x08 ans ++ rest →
      exec (.shuntOff a) s = .next ((match ans.payload with
        | none => ended .noResponse (.byte a)
        | some _ => ended .ok (.byte a)) (answered a 0x08 ans rest (requested a 0x08 [] s))))

/-- R241. -/
def Obligations.EnterDfuSendsOnly : Prop :=
  ∀ (a : Byte) (s : State), exec (.enterDfu a) s = .next (ended .ok (.byte a) (requested a 0x02 [] s))

/-- R242. -/
def Obligations.IdentityOutcome : Prop :=
  ∀ (a : Byte) (rest : List RxEvent) (s : State), s.rxState = .seekPreamble →
    (∀ u0 u1 u2 u3 bt v0 v1 v2 : Byte, s.rx = answerEvents s.cfg a 0x03 (.reply [u0, u1, u2, u3, bt, v0, v1, v2]) ++ rest →
      exec (.getIdentity a) s = .next (ended .ok (.device ⟨a, #v[u0, u1, u2, u3], boardType s.cfg bt, v0, v1, v2⟩)
        (answered a 0x03 (.reply [u0, u1, u2, u3, bt, v0, v1, v2]) rest (requested a 0x03 [] s)))) ∧
    (∀ q : List Byte, q.length ≤ 255 → q.length ≠ 8 → s.rx = answerEvents s.cfg a 0x03 (.reply q) ++ rest →
      exec (.getIdentity a) s = .next (ended .badReply (.bytes q)
        (answered a 0x03 (.reply q) rest (requested a 0x03 [] s)))) ∧
    (∀ ans : Answer, AnswerFits s.cfg ans → ans.payload = none → s.rx = answerEvents s.cfg a 0x03 ans ++ rest →
      exec (.getIdentity a) s = .next (ended .noResponse (.byte a)
        (answered a 0x03 ans rest (requested a 0x03 [] s))))

/-- R243. -/
def Obligations.SetAddressOutcome : Prop :=
  ∀ (a : Byte) (text : List Byte) (s : State),
    (parseUid text = none → exec (.setAddress a text) s = .next (ended .badInput (.bytes text) s)) ∧
    ∀ (uid : Vector Byte 4) (ans : Answer) (rest : List RxEvent),
      parseUid text = some uid → AnswerFits s.cfg ans → s.rxState = .seekPreamble → s.rx = answerEvents s.cfg a 0x04 ans ++ rest →
      exec (.setAddress a text) s = .next ((match ans.payload with
        | none => ended .noResponse (.byte a)
        | some q => if q = uid.toList then ended .ok (.bound a uid) else ended .badReply (.bytes q))
          (answered a 0x04 ans rest (requested a 0x04 uid.toList s)))

/-- R250. -/
def Obligations.UidTextFormat : Prop :=
  ∀ (text : List Byte) (uid : Vector Byte 4),
    parseUid text = some uid ↔
      text.length = 11 ∧ text.getD 2 0 = 0x2D ∧ text.getD 5 0 = 0x2D ∧ text.getD 8 0 = 0x2D ∧
        ∀ g : Fin 4, ∃ x y, HexValue (text.getD (3 * g) 0) x ∧ HexValue (text.getD (3 * g + 1) 0) y ∧
          uid[g].toNat = x * 16 + y

/-- R244. -/
def Obligations.AdcOutcome : Prop :=
  ∀ (a : Byte) (rest : List RxEvent) (s : State), s.rxState = .seekPreamble →
    (∀ q0 q1 q2 q3 q4 q5 : Byte, s.rx = answerEvents s.cfg a 0x05 (.reply [q0, q1, q2, q3, q4, q5]) ++ rest →
      exec (.getAdcRaw a) s = .next (ended .ok (.adc (le16 q0 q1) (le16 q2 q3) (le16 q4 q5))
        (answered a 0x05 (.reply [q0, q1, q2, q3, q4, q5]) rest (requested a 0x05 [] s)))) ∧
    (∀ q : List Byte, q.length ≤ 255 → q.length ≠ 6 → s.rx = answerEvents s.cfg a 0x05 (.reply q) ++ rest →
      exec (.getAdcRaw a) s = .next (ended .badReply (.bytes q)
        (answered a 0x05 (.reply q) rest (requested a 0x05 [] s)))) ∧
    (∀ ans : Answer, AnswerFits s.cfg ans → ans.payload = none → s.rx = answerEvents s.cfg a 0x05 ans ++ rest →
      exec (.getAdcRaw a) s = .next (ended .noResponse (.byte a)
        (answered a 0x05 ans rest (requested a 0x05 [] s))))

/-- R245. -/
def Obligations.StatusOutcome : Prop :=
  ∀ (a : Byte) (rest : List RxEvent) (s : State), s.rxState = .seekPreamble →
    (∀ q0 q1 q2 q3 q4 : Byte, s.rx = answerEvents s.cfg a 0x06 (.reply [q0, q1, q2, q3, q4]) ++ rest →
      exec (.getStatus a) s = .next (ended .ok (.status ⟨le16 q0 q1, (le16 q2 q3).toInt, shuntReport s.cfg q4⟩)
        (answered a 0x06 (.reply [q0, q1, q2, q3, q4]) rest (requested a 0x06 [] s)))) ∧
    (∀ q : List Byte, q.length ≤ 255 → q.length ≠ 5 → s.rx = answerEvents s.cfg a 0x06 (.reply q) ++ rest →
      exec (.getStatus a) s = .next (ended .badReply (.bytes q)
        (answered a 0x06 (.reply q) rest (requested a 0x06 [] s)))) ∧
    (∀ ans : Answer, AnswerFits s.cfg ans → ans.payload = none → s.rx = answerEvents s.cfg a 0x06 ans ++ rest →
      exec (.getStatus a) s = .next (ended .noResponse (.byte a)
        (answered a 0x06 ans rest (requested a 0x06 [] s))))

/-- R248. -/
def Obligations.SetParameterOutcome : Prop :=
  ∀ (a id : Byte) (v : Word16) (s : State),
    (paramWidth s.cfg id = none → exec (.setParameter a id v) s = .next (ended .badInput (.byte id) s)) ∧
    (paramWidth s.cfg id = some .one → 0xFF < v.toNat →
      exec (.setParameter a id v) s = .next (ended .badInput (.word v) s)) ∧
    ∀ (w : ParamWidth) (pl : List Byte) (ans : Answer) (rest : List RxEvent),
      paramWidth s.cfg id = some w → (w = .one → v.toNat ≤ 0xFF) →
      pl = id :: (match w with
        | .one => [lo8 v]
        | .two => [lo8 v, hi8 v]) →
      AnswerFits s.cfg ans → s.rxState = .seekPreamble → s.rx = answerEvents s.cfg a 0x09 ans ++ rest →
      exec (.setParameter a id v) s = .next ((match ans.payload with
        | none => ended .noResponse (.byte a)
        | some q => if q = pl then ended .ok (.param id v) else ended .badReply (.bytes q))
          (answered a 0x09 ans rest (requested a 0x09 pl s)))

/-- R249. -/
def Obligations.GetParameterOutcome : Prop :=
  ∀ (a id : Byte) (s : State),
    (paramWidth s.cfg id = none → exec (.getParameter a id) s = .next (ended .badInput (.byte id) s)) ∧
    ∀ (w : ParamWidth) (ans : Answer) (rest : List RxEvent),
      paramWidth s.cfg id = some w → AnswerFits s.cfg ans → s.rxState = .seekPreamble →
      s.rx = answerEvents s.cfg a 0x0A ans ++ rest →
      exec (.getParameter a id) s = .next ((match ans.payload with
        | none => ended .noResponse (.byte a)
        | some q =>
          match paramReading id w q with
          | some v => ended .ok (.param id v)
          | none => ended .paramMismatch (.bytes q)) (answered a 0x0A ans rest (requested a 0x0A [id] s)))

/-- 20_memory.md R72; 00_scope.md R11 (`le16`, `sext_16`). -/
def Obligations.ValuesAreLittleEndian : Prop :=
  ∀ (lo hi : Byte) (v : Word16),
    (le16 lo hi).toNat = lo.toNat + 256 * hi.toNat ∧ lo8 (le16 lo hi) = lo ∧ hi8 (le16 lo hi) = hi ∧
    le16 (lo8 v) (hi8 v) = v ∧
    sext16 v = (if v.toNat < 0x8000 then (v.toNat : Int) else (v.toNat : Int) - 0x10000)

/-- 43_command_protocol.md R251, R252 (any map, and its default map) and R253 (with the distinct ids of
10_state.md R46). -/
def Obligations.NameTables : Prop :=
  ∀ (cfg : Config) (x : Byte),
    (∀ h : x.toNat < cfg.boardTypes.length, boardType cfg x = .known cfg.boardTypes[x.toNat]) ∧
    (cfg.boardTypes.length ≤ x.toNat → boardType cfg x = .unknown x) ∧
    (cfg.shuntStates = defaultShuntStates →
      shuntReport cfg x = (match x.toNat with
        | 0 => .known .off
        | 1 => .known .idle
        | 2 => .known .on
        | 3 => .known .undervolt
        | 4 => .known .overtemp
        | _ => .unknown x)) ∧
    ((cfg.shuntStates.map Prod.fst).Nodup →
      ∀ p ∈ cfg.shuntStates, p.1 = x → shuntReport cfg x = .known p.2) ∧
    ((∀ p ∈ cfg.shuntStates, p.1 ≠ x) → shuntReport cfg x = .unknown x) ∧
    ((cfg.registry.map ParamDescriptor.id).Nodup →
      ∀ d ∈ cfg.registry, d.id = x → paramWidth cfg x = some d.width) ∧
    ((∀ d ∈ cfg.registry, d.id ≠ x) → paramWidth cfg x = none)

/-! ## The session sequences -/

/-- 44_session_sequences.md R290: the whole state after a scan. That `seq_idx` is then n, the last index of the loop, is
read by inference (log entry 9); its value after a scan of no address is left open. -/
def Obligations.DiscoverOutcome : Prop :=
  ∀ (n : Byte) (s : State),
    (s.cfg.discoverMax.toNat < n.toNat → exec (.discover n) s = .next (ended .badInput (.byte n) s)) ∧
    ∀ (answers : List Answer) (rest : List RxEvent),
      n.toNat ≤ s.cfg.discoverMax.toNat → answers.length = n.toNat → (∀ ans ∈ answers, AnswerFits s.cfg ans) →
      s.rxState = .seekPreamble → s.rx = scanEvents s.cfg 1 answers ++ rest →
      ∃ idx : Word32, (answers ≠ [] → idx = BitVec.ofNat 32 n.toNat) ∧
        exec (.discover n) s = .next (ended .ok (.addresses (scanPresent 1 answers)) (readUpTo rest
          (selected .normal
            { scanned 1 answers (selected .discover { s with seqPresent := [] }) with seqIdx := idx })))

/-- R295, over a registry with distinct ids (10_state.md R46): the whole state after a listing. That `seq_idx`
is then the last index of the loop is read by inference (log entry 9); its value after a listing of no entry is left
open. -/
def Obligations.GetAllParametersOutcome : Prop :=
  ∀ (a : Byte) (entries : List (ParamDescriptor × Answer)) (rest : List RxEvent) (s : State),
    entries.map Prod.fst = s.cfg.registry → (s.cfg.registry.map ParamDescriptor.id).Nodup →
    (∀ e ∈ entries, AnswerFits s.cfg e.2) → s.rxState = .seekPreamble →
    s.rx = entries.flatMap (fun e => answerEvents s.cfg a 0x0A e.2) ++ rest →
    ∃ idx : Word32, (entries ≠ [] → idx = BitVec.ofNat 32 (entries.length - 1)) ∧
      exec (.getAllParameters a) s = .next (ended .ok (.params (entries.map fun e => paramRecord e.1 e.2))
        (readUpTo rest { listed a entries { s with seqResults := [] } with seqIdx := idx }))

/-- R300, the refusal, the scan and the first round: the round ends with OK if `STOP` is high at its end, else the
operation runs on. That a step ends between two rounds is the model's choice (log entry 14), and that `seq_idx` is then
n, the last index of the scan, is read by inference (log entry 9). -/
def Obligations.MonitorOutcome : Prop :=
  ∀ (n : Byte) (s : State),
    (s.cfg.discoverMax.toNat < n.toNat → exec (.monitor n) s = .next (ended .badInput (.byte n) s)) ∧
    ∀ (answers : List Answer) (polls : List (Byte × Answer)) (rest : List RxEvent)
      (level : Bool),
      n.toNat ≤ s.cfg.discoverMax.toNat → answers.length = n.toNat → (∀ ans ∈ answers, AnswerFits s.cfg ans) →
      polls.map Prod.fst = scanPresent 1 answers → (∀ p ∈ polls, AnswerFits s.cfg p.2) →
      s.rxState = .seekPreamble → s.rx = scanEvents s.cfg 1 answers ++ pollEvents s.cfg polls ++ rest →
      level = s.stopNext.headD s.stop →
      ∃ idx : Word32, (answers ≠ [] → idx = BitVec.ofNat 32 n.toNat) ∧
        exec (.monitor n) s = .next (afterRound level (readUpTo rest (polled polls (selected .normal
          { scanned 1 answers (selected .discover { s with seqPresent := [] }) with seqIdx := idx }))))

/-- R300, R301: the next step after a round that did not end MONITOR is one more round over the same present list. That
a step ends between two rounds is the model's choice (log entry 14). -/
def Obligations.MonitorNextRound : Prop :=
  ∀ (polls : List (Byte × Answer)) (rest : List RxEvent) (level : Bool) (s : State),
    s.opState = .busy .monitorPause → polls.map Prod.fst = s.seqPresent → (∀ p ∈ polls, AnswerFits s.cfg p.2) →
    s.rxState = .seekPreamble → s.rx = pollEvents s.cfg polls ++ rest → level = s.stopNext.headD s.stop →
    step s = .next (afterRound level (readUpTo rest (polled polls s)))

/-! ## The bootloader -/

/-- 45_bootloader.md R320: the attempts that fail, and then the one that succeeds, or none. -/
def Obligations.BlSyncOutcome : Prop :=
  ∀ (tries : List (List Byte)) (rest : List RxEvent) (s : State), (∀ r ∈ tries, r.length ≤ 2 ∧ r ≠ ackReply) →
    (tries.length < s.cfg.syncAttempts → s.rx = (tries ++ [ackReply]).flatMap (readEvents 2) ++ rest →
      exec .blSync s = .next (ended .ok (.count (tries.length + 1)) { s with
        blRetry := tries.length + 1
        rx := rest
        portLog := s.portLog ++ (tries ++ [ackReply]).flatMap (bootLog [s.cfg.stk.getSync, 0x20] 2) })) ∧
    (tries.length = s.cfg.syncAttempts → s.rx = tries.flatMap (readEvents 2) ++ rest →
      exec .blSync s = .next (ended .syncFailed (.count s.cfg.syncAttempts) { s with
        blRetry := s.cfg.syncAttempts
        rx := rest
        portLog := s.portLog ++ tries.flatMap (bootLog [s.cfg.stk.getSync, 0x20] 2) }))

/-- R321. That the record of a malformed reply carries both the exchange (R321) and the bytes read (R370) is the model's
choice (log entry 23). -/
def Obligations.BlVersionOutcome : Prop :=
  ∀ (minor major : Byte) (bad : List Byte) (rest : List RxEvent) (s : State) (reqMinor reqMajor : List Byte),
    reqMinor = [s.cfg.stk.getParameter, s.cfg.stk.swMinor, 0x20] →
    reqMajor = [s.cfg.stk.getParameter, s.cfg.stk.swMajor, 0x20] →
    (s.rx = readEvents 3 [0x14, minor, 0x10] ++ readEvents 3 [0x14, major, 0x10] ++ rest →
      exec .blGetVersion s = .next (ended .ok (.version major minor) { s with
        rx := rest
        portLog := s.portLog ++ bootLog reqMinor 3 [0x14, minor, 0x10] ++ bootLog reqMajor 3 [0x14, major, 0x10] })) ∧
    (bad.length ≤ 3 → (∀ v, bad ≠ [0x14, v, 0x10]) →
      (s.rx = readEvents 3 bad ++ rest →
        exec .blGetVersion s = .next (ended .blBadAck (.badVersion .minor bad) { s with
          rx := rest
          portLog := s.portLog ++ bootLog reqMinor 3 bad })) ∧
      (s.rx = readEvents 3 [0x14, minor, 0x10] ++ readEvents 3 bad ++ rest →
        exec .blGetVersion s = .next (ended .blBadAck (.badVersion .major bad) { s with
          rx := rest
          portLog := s.portLog ++ bootLog reqMinor 3 [0x14, minor, 0x10] ++ bootLog reqMajor 3 bad })))

/-- R322; 20_memory.md R74. -/
def Obligations.BlLoadAddressOutcome : Prop :=
  ∀ (addr : BitVec 24) (s : State),
    (addr.toNat % 2 = 1 ∨ 0x20000 ≤ addr.toNat →
      exec (.blLoadAddress addr) s = .next (ended .badInput (.addr24 addr) s)) ∧
    ∀ (w : Word16) (r : List Byte) (rest : List RxEvent),
      2 * w.toNat = addr.toNat → r.length ≤ 2 → s.rx = readEvents 2 r ++ rest →
      exec (.blLoadAddress addr) s = .next (
        (if r = ackReply then ended .ok (.word w) else ended .blBadAck (.bytes r))
        { s with
          blCursor := if r = ackReply then w else s.blCursor
          blCursorValid := decide (r = ackReply)
          rx := rest
          portLog := s.portLog ++ bootLog (loadAddressRequest s.cfg.stk w) 2 r })

/-- R324, R323. -/
def Obligations.BlWriteBlockOutcome : Prop :=
  ∀ (d : Vector Byte 16) (r : List Byte) (rest : List RxEvent) (s : State),
    r.length ≤ 2 → s.rx = readEvents 2 r ++ rest →
    exec (.blWriteBlock d) s = .next (
      (if r = ackReply then ended .ok (.count 16) else ended .blBadAck (.bytes r))
      (readUpTo rest (wroteBlock d r s)))

/-- R325. -/
def Obligations.BlReadBlockOutcome : Prop :=
  ∀ (rest : List RxEvent) (s : State),
    (∀ d : Vector Byte 16, s.rx = readEvents 18 (blockReply d) ++ rest →
      exec .blReadBlock s = .next (ended .ok (.block d) (readUpTo rest (readBlock d s)))) ∧
    ∀ r : List Byte, r.length ≤ 18 → (∀ d, r ≠ blockReply d) → s.rx = readEvents 18 r ++ rest →
      exec .blReadBlock s = .next (ended .blBadAck (.bytes r) (readUpTo rest (readBlockFailed r s)))

/-- 30_encoding.md R106, R107, R108; 20_memory.md R73: the request layouts, for both byte orders, and the default command
bytes. The default values and orders are the family's (log entry 12), as R107 and R73 say themselves. -/
def Obligations.BootRequestBytes : Prop :=
  ∀ (c : StkCodes) (w : Word16) (d : Vector Byte 16),
    getSyncRequest c = [c.getSync, 0x20] ∧
    versionRequest c .minor = [c.getParameter, c.swMinor, 0x20] ∧
    versionRequest c .major = [c.getParameter, c.swMajor, 0x20] ∧
    loadAddressRequest c w =
      [c.loadAddress] ++ (if c.addressLowFirst then [lo8 w, hi8 w] else [hi8 w, lo8 w]) ++ [0x20] ∧
    progPageRequest c d =
      [c.progPage] ++ (if c.lengthHighFirst then [0x00, 0x10] else [0x10, 0x00]) ++ [c.memtypeFlash] ++ d.toList ++
        [0x20] ∧
    readPageRequest c =
      [c.readPage] ++ (if c.lengthHighFirst then [0x00, 0x10] else [0x10, 0x00]) ++ [c.memtypeFlash, 0x20] ∧
    (c = {} → c.getSync = 0x30 ∧ c.getParameter = 0x41 ∧ c.loadAddress = 0x55 ∧ c.progPage = 0x64 ∧ c.readPage = 0x74 ∧
      c.swMajor = 0x81 ∧ c.swMinor = 0x82 ∧ c.memtypeFlash = 0x46 ∧ c.addressLowFirst = true ∧
      c.lengthHighFirst = true)

/-- 20_memory.md R76, R77: a window holds the byte listed at each of its addresses, and 0xFF where none is listed. That
the image is a list in canonical form, which loading a byte keeps, is the model's choice (log entry 7). -/
def Obligations.WindowFillsAbsent : Prop :=
  (∀ (m : Memory) (b : Nat) (i : Fin 16), m.wf = true →
    (∀ x, (b + i.val, x) ∈ m → (window m b)[i] = x) ∧
    ((∀ x, (b + i.val, x) ∉ m) → (window m b)[i] = 0xFF)) ∧
  ∀ (m : Memory) (a a' : Nat) (x : Byte),
    (m.write a x).read a = some x ∧ (a' ≠ a → (m.write a x).read a' = m.read a') ∧
    (a < 2 ^ 32 → m.wf = true → (m.write a x).wf = true)

/-- R326, R327, R329; 20_memory.md R79 (the bytes of a window are WindowFillsAbsent's matter): every window below the boundary that is not blank is loaded and written, no
other byte is sent, and the pass ends with their number. -/
def Obligations.BlProgramWritesAll : Prop :=
  ∀ (ws : List Nat) (rest : List RxEvent) (s : State),
    s.cfg.bootBoundary.toNat % 16 = 0 → s.cfg.bootBoundary.toNat ≤ 0x20000 →
    ws = dataWindows s.image s.cfg.bootBoundary.toNat → s.rx = programAcks ws ++ rest →
    exec .blProgram s = .next (ended .ok (.count ws.length)
      (atWindow s.cfg.bootBoundary.toNat (readUpTo rest (programmed ws s))))

/-- R327, R331, R372: the first failed acknowledgement ends the pass with the failing window's base. -/
def Obligations.BlProgramAborts : Prop :=
  ∀ (done later : List Nat) (b : Nat) (r : List Byte) (rest : List RxEvent) (s : State),
    s.cfg.bootBoundary.toNat % 16 = 0 → s.cfg.bootBoundary.toNat ≤ 0x20000 →
    done ++ b :: later = dataWindows s.image s.cfg.bootBoundary.toNat → r.length ≤ 2 → r ≠ ackReply →
    (s.rx = programAcks done ++ readEvents 2 r ++ rest →
      exec .blProgram s = .next (ended .blBadAck (.windowBase (BitVec.ofNat 32 b))
        (atWindow b (readUpTo rest (loadedWindow b r (programmed done s)))))) ∧
    (s.rx = programAcks done ++ readEvents 2 ackReply ++ readEvents 2 r ++ rest →
      exec .blProgram s = .next (ended .blBadAck (.windowBase (BitVec.ofNat 32 b))
        (atWindow b (readUpTo rest
          (wroteBlock (window s.image b) r (loadedWindow b ackReply (programmed done s)))))))

/-- R328, R330: every window below the boundary that is not blank is loaded and, if that is acknowledged, read; the
bases that fail, and only they, are reported. -/
def Obligations.BlVerifyOutcome : Prop :=
  ∀ (replies : List (Nat × WindowReply)) (bad : List Word32) (rest : List RxEvent) (s : State),
    s.cfg.bootBoundary.toNat % 16 = 0 → s.cfg.bootBoundary.toNat ≤ 0x20000 →
    replies.map Prod.fst = dataWindows s.image s.cfg.bootBoundary.toNat → (∀ p ∈ replies, p.2.fits) →
    s.rx = replies.flatMap (fun p => p.2.events) ++ rest →
    bad = (replies.filter fun p => p.2.fails (window s.image p.1)).map (fun p => BitVec.ofNat 32 p.1) →
    exec .blVerify s = .next (
      (if bad = [] then ended .ok (.count 0) else ended .verifyMismatch (.windows bad))
      (atWindow s.cfg.bootBoundary.toNat (readUpTo rest
        (replies.foldl (fun t p => p.2.after p.1 t) { s with seqMismatch := bad }))))

/-! ## Decode and encode -/

/-- 30_encoding.md R120, R121: every operation that has an encoding is read back from it, whatever follows. -/
def Obligations.DecodeEncode : Prop :=
  ∀ (i : Instr) (rest : List Byte), WellFormed i = true → decode (encode i ++ rest) = .instr i rest

/-- R120, R121: the bytes an operation is read from are its encoding, so no operation has two encodings. -/
def Obligations.EncodeDecode : Prop :=
  ∀ (bytes rest : List Byte) (i : Instr), decode bytes = .instr i rest → bytes = encode i ++ rest ∧ WellFormed i = true

/-- R122. That the opcode's byte is taken alone, and the bytes behind it stay offered, is the model's choice (log
entry 1). -/
def Obligations.IllegalOpcodes : Prop :=
  ∀ (op : Byte) (rest : List Byte) (s : State), s.opState = .idle → s.hostIn = op :: rest →
    (op.toNat = 0x02 ∨ (0x05 ≤ op.toNat ∧ op.toNat ≤ 0x10) ∨ (0x1B ≤ op.toNat ∧ op.toNat ≤ 0x1F) ∨
      (0x23 ≤ op.toNat ∧ op.toNat ≤ 0x2F) ∨ 0x37 ≤ op.toNat) →
    step s = .next (ended .badOp (.byte op) { s with hostIn := rest })

/-- R120, R121, R124: words written out from the formats. -/
def Obligations.SpecWordsDecode : Prop :=
  decodeTableWord 8 0x00 = some .crcClr ∧
  decodeTableWord 16 0x5501 = some (.crcUpd 0x55) ∧
  decodeTableWord 16 0x0311 = some (.ping 3) ∧
  decodeTableWord 40 0x1234020319 = some (.setParameter 3 2 0x1234) ∧
  decodeTableWord 32 0x00010032 = some (.blLoadAddress 0x000100) ∧
  decodeTableWord 40 0x0001030003 = some (.frameTx 0x00 3 1 []) ∧
  decodeTableWord 8 0x02 = none

/-! ## The step -/

/-- 10_state.md R40: in IDLE the step takes the operation at the head of `HOST_IN` and runs it; a running operation's
step takes none, and goes on with that operation. What a step is, and that an incomplete operation is not taken, are
the model's choices (log entries 1 and 3). -/
def Obligations.StepRunsOperation : Prop :=
  ∀ s : State,
    (s.opState = .idle → ∀ i rest, decode s.hostIn = .instr i rest → step s = exec i { s with hostIn := rest }) ∧
    (s.opState = .idle → decode s.hostIn = .incomplete → step s = .next s) ∧
    ∀ p, s.opState = .busy p → ∃ t, step s = .next t ∧ t.hostIn = s.hostIn ∧
      (t.opState = .idle ∨ ∃ p', t.opState = .busy p' ∧ p'.opcode = p.opcode)

/-- 70_reset_and_hazards.md R405, 60_exceptions.md R385: an operation that waits for an event stays where it is while
there is none. That the model's step then changes nothing is its choice (log entry 2). -/
def Obligations.WaitForEvent : Prop :=
  ∀ (s : State) (p : Pos), s.opState = .busy p → p.awaitsRx = true → s.rx = [] → step s = .next s

/-- 60_exceptions.md R370, R374: no step stops the block; every error is a next state with its result. -/
def Obligations.EveryStepAnswersNext : Prop :=
  ∀ (s : State) (i : Instr), (∃ t, step s = .next t) ∧ ∃ t, exec i s = .next t

/-- 10_state.md R50; 70_reset_and_hazards.md R400, R401: the reset event gives every register its reset value and leaves
the parameters and the environment alone; the state after reset holds those values, with nothing done at the ports. -/
def Obligations.ResetValues : Prop :=
  (∀ s : State, HoldsResetValues s.afterReset ∧ s.afterReset.cfg = s.cfg ∧ s.afterReset.hostIn = s.hostIn ∧
    s.afterReset.rx = s.rx ∧ s.afterReset.stop = s.stop ∧ s.afterReset.stopNext = s.stopNext ∧
    s.afterReset.image = s.image ∧ s.afterReset.portLog = s.portLog) ∧
  HoldsResetValues State.reset ∧ txOf State.reset.portLog = [] ∧ rxOf State.reset.portLog = []

/-- The invariant of Safety.lean holds after reset. -/
def Obligations.InvariantAtReset : Prop := BlockInv State.reset

/-- 10_state.md R35 to R41; 42_frame_decoder.md R194, R203; 60_exceptions.md R374: every step keeps the invariant of
Safety.lean. -/
def Obligations.InvariantKept : Prop := ∀ s t : State, BlockInv s → step s = .next t → BlockInv t

/-- The "Flags/state written" lines of 40_crc8.md to 45_bootloader.md; 20_memory.md R76; 10_state.md R44: an operation
writes no register but its own, when it is taken and in every later step of it. -/
def Obligations.OperationWritesOnly : Prop :=
  (∀ (i : Instr) (s t : State), exec i s = .next t → WritesOnly (opcodeOf i) s t) ∧
  ∀ (p : Pos) (s t : State), s.opState = .busy p → step s = .next t → WritesOnly p.opcode s t

/-- 60_exceptions.md R370, R371: an operation ends with exactly one result, of its own codes. -/
def Obligations.OneResultPerOperation : Prop :=
  (∀ (i : Instr) (s t : State), exec i s = .next t → Reports (opcodeOf i) s t) ∧
  ∀ (p : Pos) (s t : State), s.opState = .busy p → step s = .next t → Reports p.opcode s t

/-- 10_state.md R32; 20_memory.md R82: a step takes the events of `RX` in their order, without loss, duplication or
reordering, and what was done at the ports stays done. -/
def Obligations.EventsTakenInOrder : Prop :=
  ∀ s t : State, step s = .next t → s.portLog <+: t.portLog ∧ s.rx = rxOf (newEvents s t) ++ t.rx

/-- 10_state.md R32, R40: the outcome does not depend on how the events are portioned: an operation over the first events,
gone on with when more are there, is the operation over all of them. That an operation out of events waits, and that a
further step goes on with it, are the model's choices (log entries 2 and 3). -/
def Obligations.EventPortions : Prop :=
  ∀ (i : Instr) (l l' : List RxEvent) (s : State),
    ∃ t, exec i { s with rx := l } = .next t ∧
      exec i { s with rx := l ++ l' } =
        (if t.opState.awaitsRx then step { t with rx := t.rx ++ l' } else .next { t with rx := t.rx ++ l' })
end

