-- ==== Sys2Proof/Laws/State.lean ====
section
/-!
SUPPORT. What each update of the state leaves in each field: one lemma per field per update, true by definition.
-/

namespace Sys2Proof.Machine

/-- The state with other events to come. -/
def setRx (r : List RxEvent) (s : State) : State := { s with rx := r }

/-- The state with another position. -/
def setOp (o : OpState) (s : State) : State := { s with opState := o }

variable (s : State)

/-! ## logged -/

@[simp] theorem logged_cfg (e : PortEvent) : (s.logged e).cfg = s.cfg := rfl
@[simp] theorem logged_crcAcc (e : PortEvent) : (s.logged e).crcAcc = s.crcAcc := rfl
@[simp] theorem logged_rxState (e : PortEvent) : (s.logged e).rxState = s.rxState := rfl
@[simp] theorem logged_rxHdr (e : PortEvent) : (s.logged e).rxHdr = s.rxHdr := rfl
@[simp] theorem logged_rxHcnt (e : PortEvent) : (s.logged e).rxHcnt = s.rxHcnt := rfl
@[simp] theorem logged_rxPay (e : PortEvent) : (s.logged e).rxPay = s.rxPay := rfl
@[simp] theorem logged_rxPcnt (e : PortEvent) : (s.logged e).rxPcnt = s.rxPcnt := rfl
@[simp] theorem logged_rxCrc (e : PortEvent) : (s.logged e).rxCrc = s.rxCrc := rfl
@[simp] theorem logged_sesAddr (e : PortEvent) : (s.logged e).sesAddr = s.sesAddr := rfl
@[simp] theorem logged_sesCmd (e : PortEvent) : (s.logged e).sesCmd = s.sesCmd := rfl
@[simp] theorem logged_sesReq (e : PortEvent) : (s.logged e).sesReq = s.sesReq := rfl
@[simp] theorem logged_tmoSel (e : PortEvent) : (s.logged e).tmoSel = s.tmoSel := rfl
@[simp] theorem logged_blCursor (e : PortEvent) : (s.logged e).blCursor = s.blCursor := rfl
@[simp] theorem logged_blCursorValid (e : PortEvent) : (s.logged e).blCursorValid = s.blCursorValid := rfl
@[simp] theorem logged_blData (e : PortEvent) : (s.logged e).blData = s.blData := rfl
@[simp] theorem logged_blRetry (e : PortEvent) : (s.logged e).blRetry = s.blRetry := rfl
@[simp] theorem logged_opState (e : PortEvent) : (s.logged e).opState = s.opState := rfl
@[simp] theorem logged_seqIdx (e : PortEvent) : (s.logged e).seqIdx = s.seqIdx := rfl
@[simp] theorem logged_seqPresent (e : PortEvent) : (s.logged e).seqPresent = s.seqPresent := rfl
@[simp] theorem logged_seqResults (e : PortEvent) : (s.logged e).seqResults = s.seqResults := rfl
@[simp] theorem logged_seqMismatch (e : PortEvent) : (s.logged e).seqMismatch = s.seqMismatch := rfl
@[simp] theorem logged_hostIn (e : PortEvent) : (s.logged e).hostIn = s.hostIn := rfl
@[simp] theorem logged_rx (e : PortEvent) : (s.logged e).rx = s.rx := rfl
@[simp] theorem logged_stop (e : PortEvent) : (s.logged e).stop = s.stop := rfl
@[simp] theorem logged_stopNext (e : PortEvent) : (s.logged e).stopNext = s.stopNext := rfl
@[simp] theorem logged_image (e : PortEvent) : (s.logged e).image = s.image := rfl
@[simp] theorem logged_portLog (e : PortEvent) : (s.logged e).portLog = s.portLog ++ [e] := rfl

/-! ## txWrite -/

@[simp] theorem txWrite_cfg (b : Byte) : (txWrite b s).cfg = s.cfg := rfl
@[simp] theorem txWrite_crcAcc (b : Byte) : (txWrite b s).crcAcc = s.crcAcc := rfl
@[simp] theorem txWrite_rxState (b : Byte) : (txWrite b s).rxState = s.rxState := rfl
@[simp] theorem txWrite_rxHdr (b : Byte) : (txWrite b s).rxHdr = s.rxHdr := rfl
@[simp] theorem txWrite_rxHcnt (b : Byte) : (txWrite b s).rxHcnt = s.rxHcnt := rfl
@[simp] theorem txWrite_rxPay (b : Byte) : (txWrite b s).rxPay = s.rxPay := rfl
@[simp] theorem txWrite_rxPcnt (b : Byte) : (txWrite b s).rxPcnt = s.rxPcnt := rfl
@[simp] theorem txWrite_rxCrc (b : Byte) : (txWrite b s).rxCrc = s.rxCrc := rfl
@[simp] theorem txWrite_sesAddr (b : Byte) : (txWrite b s).sesAddr = s.sesAddr := rfl
@[simp] theorem txWrite_sesCmd (b : Byte) : (txWrite b s).sesCmd = s.sesCmd := rfl
@[simp] theorem txWrite_sesReq (b : Byte) : (txWrite b s).sesReq = s.sesReq := rfl
@[simp] theorem txWrite_tmoSel (b : Byte) : (txWrite b s).tmoSel = s.tmoSel := rfl
@[simp] theorem txWrite_blCursor (b : Byte) : (txWrite b s).blCursor = s.blCursor := rfl
@[simp] theorem txWrite_blCursorValid (b : Byte) : (txWrite b s).blCursorValid = s.blCursorValid := rfl
@[simp] theorem txWrite_blData (b : Byte) : (txWrite b s).blData = s.blData := rfl
@[simp] theorem txWrite_blRetry (b : Byte) : (txWrite b s).blRetry = s.blRetry := rfl
@[simp] theorem txWrite_opState (b : Byte) : (txWrite b s).opState = s.opState := rfl
@[simp] theorem txWrite_seqIdx (b : Byte) : (txWrite b s).seqIdx = s.seqIdx := rfl
@[simp] theorem txWrite_seqPresent (b : Byte) : (txWrite b s).seqPresent = s.seqPresent := rfl
@[simp] theorem txWrite_seqResults (b : Byte) : (txWrite b s).seqResults = s.seqResults := rfl
@[simp] theorem txWrite_seqMismatch (b : Byte) : (txWrite b s).seqMismatch = s.seqMismatch := rfl
@[simp] theorem txWrite_hostIn (b : Byte) : (txWrite b s).hostIn = s.hostIn := rfl
@[simp] theorem txWrite_rx (b : Byte) : (txWrite b s).rx = s.rx := rfl
@[simp] theorem txWrite_stop (b : Byte) : (txWrite b s).stop = s.stop := rfl
@[simp] theorem txWrite_stopNext (b : Byte) : (txWrite b s).stopNext = s.stopNext := rfl
@[simp] theorem txWrite_image (b : Byte) : (txWrite b s).image = s.image := rfl
@[simp] theorem txWrite_portLog (b : Byte) : (txWrite b s).portLog = s.portLog ++ [.tx b] := rfl

/-! ## setTimeout -/

@[simp] theorem setTimeout_cfg (sel : TimeoutSel) : (setTimeout sel s).cfg = s.cfg := rfl
@[simp] theorem setTimeout_crcAcc (sel : TimeoutSel) : (setTimeout sel s).crcAcc = s.crcAcc := rfl
@[simp] theorem setTimeout_rxState (sel : TimeoutSel) : (setTimeout sel s).rxState = s.rxState := rfl
@[simp] theorem setTimeout_rxHdr (sel : TimeoutSel) : (setTimeout sel s).rxHdr = s.rxHdr := rfl
@[simp] theorem setTimeout_rxHcnt (sel : TimeoutSel) : (setTimeout sel s).rxHcnt = s.rxHcnt := rfl
@[simp] theorem setTimeout_rxPay (sel : TimeoutSel) : (setTimeout sel s).rxPay = s.rxPay := rfl
@[simp] theorem setTimeout_rxPcnt (sel : TimeoutSel) : (setTimeout sel s).rxPcnt = s.rxPcnt := rfl
@[simp] theorem setTimeout_rxCrc (sel : TimeoutSel) : (setTimeout sel s).rxCrc = s.rxCrc := rfl
@[simp] theorem setTimeout_sesAddr (sel : TimeoutSel) : (setTimeout sel s).sesAddr = s.sesAddr := rfl
@[simp] theorem setTimeout_sesCmd (sel : TimeoutSel) : (setTimeout sel s).sesCmd = s.sesCmd := rfl
@[simp] theorem setTimeout_sesReq (sel : TimeoutSel) : (setTimeout sel s).sesReq = s.sesReq := rfl
@[simp] theorem setTimeout_tmoSel (sel : TimeoutSel) : (setTimeout sel s).tmoSel = sel := rfl
@[simp] theorem setTimeout_blCursor (sel : TimeoutSel) : (setTimeout sel s).blCursor = s.blCursor := rfl
@[simp] theorem setTimeout_blCursorValid (sel : TimeoutSel) : (setTimeout sel s).blCursorValid = s.blCursorValid := rfl
@[simp] theorem setTimeout_blData (sel : TimeoutSel) : (setTimeout sel s).blData = s.blData := rfl
@[simp] theorem setTimeout_blRetry (sel : TimeoutSel) : (setTimeout sel s).blRetry = s.blRetry := rfl
@[simp] theorem setTimeout_opState (sel : TimeoutSel) : (setTimeout sel s).opState = s.opState := rfl
@[simp] theorem setTimeout_seqIdx (sel : TimeoutSel) : (setTimeout sel s).seqIdx = s.seqIdx := rfl
@[simp] theorem setTimeout_seqPresent (sel : TimeoutSel) : (setTimeout sel s).seqPresent = s.seqPresent := rfl
@[simp] theorem setTimeout_seqResults (sel : TimeoutSel) : (setTimeout sel s).seqResults = s.seqResults := rfl
@[simp] theorem setTimeout_seqMismatch (sel : TimeoutSel) : (setTimeout sel s).seqMismatch = s.seqMismatch := rfl
@[simp] theorem setTimeout_hostIn (sel : TimeoutSel) : (setTimeout sel s).hostIn = s.hostIn := rfl
@[simp] theorem setTimeout_rx (sel : TimeoutSel) : (setTimeout sel s).rx = s.rx := rfl
@[simp] theorem setTimeout_stop (sel : TimeoutSel) : (setTimeout sel s).stop = s.stop := rfl
@[simp] theorem setTimeout_stopNext (sel : TimeoutSel) : (setTimeout sel s).stopNext = s.stopNext := rfl
@[simp] theorem setTimeout_image (sel : TimeoutSel) : (setTimeout sel s).image = s.image := rfl
@[simp] theorem setTimeout_portLog (sel : TimeoutSel) : (setTimeout sel s).portLog = s.portLog ++ [.tmoSel sel] := rfl

/-! ## rxTake -/

@[simp] theorem rxTake_cfg (e : RxEvent) (rest : List RxEvent) : (rxTake e rest s).cfg = s.cfg := rfl
@[simp] theorem rxTake_crcAcc (e : RxEvent) (rest : List RxEvent) : (rxTake e rest s).crcAcc = s.crcAcc := rfl
@[simp] theorem rxTake_rxState (e : RxEvent) (rest : List RxEvent) : (rxTake e rest s).rxState = s.rxState := rfl
@[simp] theorem rxTake_rxHdr (e : RxEvent) (rest : List RxEvent) : (rxTake e rest s).rxHdr = s.rxHdr := rfl
@[simp] theorem rxTake_rxHcnt (e : RxEvent) (rest : List RxEvent) : (rxTake e rest s).rxHcnt = s.rxHcnt := rfl
@[simp] theorem rxTake_rxPay (e : RxEvent) (rest : List RxEvent) : (rxTake e rest s).rxPay = s.rxPay := rfl
@[simp] theorem rxTake_rxPcnt (e : RxEvent) (rest : List RxEvent) : (rxTake e rest s).rxPcnt = s.rxPcnt := rfl
@[simp] theorem rxTake_rxCrc (e : RxEvent) (rest : List RxEvent) : (rxTake e rest s).rxCrc = s.rxCrc := rfl
@[simp] theorem rxTake_sesAddr (e : RxEvent) (rest : List RxEvent) : (rxTake e rest s).sesAddr = s.sesAddr := rfl
@[simp] theorem rxTake_sesCmd (e : RxEvent) (rest : List RxEvent) : (rxTake e rest s).sesCmd = s.sesCmd := rfl
@[simp] theorem rxTake_sesReq (e : RxEvent) (rest : List RxEvent) : (rxTake e rest s).sesReq = s.sesReq := rfl
@[simp] theorem rxTake_tmoSel (e : RxEvent) (rest : List RxEvent) : (rxTake e rest s).tmoSel = s.tmoSel := rfl
@[simp] theorem rxTake_blCursor (e : RxEvent) (rest : List RxEvent) : (rxTake e rest s).blCursor = s.blCursor := rfl
@[simp] theorem rxTake_blCursorValid (e : RxEvent) (rest : List RxEvent) : (rxTake e rest s).blCursorValid = s.blCursorValid := rfl
@[simp] theorem rxTake_blData (e : RxEvent) (rest : List RxEvent) : (rxTake e rest s).blData = s.blData := rfl
@[simp] theorem rxTake_blRetry (e : RxEvent) (rest : List RxEvent) : (rxTake e rest s).blRetry = s.blRetry := rfl
@[simp] theorem rxTake_opState (e : RxEvent) (rest : List RxEvent) : (rxTake e rest s).opState = s.opState := rfl
@[simp] theorem rxTake_seqIdx (e : RxEvent) (rest : List RxEvent) : (rxTake e rest s).seqIdx = s.seqIdx := rfl
@[simp] theorem rxTake_seqPresent (e : RxEvent) (rest : List RxEvent) : (rxTake e rest s).seqPresent = s.seqPresent := rfl
@[simp] theorem rxTake_seqResults (e : RxEvent) (rest : List RxEvent) : (rxTake e rest s).seqResults = s.seqResults := rfl
@[simp] theorem rxTake_seqMismatch (e : RxEvent) (rest : List RxEvent) : (rxTake e rest s).seqMismatch = s.seqMismatch := rfl
@[simp] theorem rxTake_hostIn (e : RxEvent) (rest : List RxEvent) : (rxTake e rest s).hostIn = s.hostIn := rfl
@[simp] theorem rxTake_rx (e : RxEvent) (rest : List RxEvent) : (rxTake e rest s).rx = rest := rfl
@[simp] theorem rxTake_stop (e : RxEvent) (rest : List RxEvent) : (rxTake e rest s).stop = s.stop := rfl
@[simp] theorem rxTake_stopNext (e : RxEvent) (rest : List RxEvent) : (rxTake e rest s).stopNext = s.stopNext := rfl
@[simp] theorem rxTake_image (e : RxEvent) (rest : List RxEvent) : (rxTake e rest s).image = s.image := rfl
@[simp] theorem rxTake_portLog (e : RxEvent) (rest : List RxEvent) : (rxTake e rest s).portLog = s.portLog ++ [.rx e] := rfl

/-! ## hostOut -/

@[simp] theorem hostOut_cfg (r : HostRecord) : (hostOut r s).cfg = s.cfg := rfl
@[simp] theorem hostOut_crcAcc (r : HostRecord) : (hostOut r s).crcAcc = s.crcAcc := rfl
@[simp] theorem hostOut_rxState (r : HostRecord) : (hostOut r s).rxState = s.rxState := rfl
@[simp] theorem hostOut_rxHdr (r : HostRecord) : (hostOut r s).rxHdr = s.rxHdr := rfl
@[simp] theorem hostOut_rxHcnt (r : HostRecord) : (hostOut r s).rxHcnt = s.rxHcnt := rfl
@[simp] theorem hostOut_rxPay (r : HostRecord) : (hostOut r s).rxPay = s.rxPay := rfl
@[simp] theorem hostOut_rxPcnt (r : HostRecord) : (hostOut r s).rxPcnt = s.rxPcnt := rfl
@[simp] theorem hostOut_rxCrc (r : HostRecord) : (hostOut r s).rxCrc = s.rxCrc := rfl
@[simp] theorem hostOut_sesAddr (r : HostRecord) : (hostOut r s).sesAddr = s.sesAddr := rfl
@[simp] theorem hostOut_sesCmd (r : HostRecord) : (hostOut r s).sesCmd = s.sesCmd := rfl
@[simp] theorem hostOut_sesReq (r : HostRecord) : (hostOut r s).sesReq = s.sesReq := rfl
@[simp] theorem hostOut_tmoSel (r : HostRecord) : (hostOut r s).tmoSel = s.tmoSel := rfl
@[simp] theorem hostOut_blCursor (r : HostRecord) : (hostOut r s).blCursor = s.blCursor := rfl
@[simp] theorem hostOut_blCursorValid (r : HostRecord) : (hostOut r s).blCursorValid = s.blCursorValid := rfl
@[simp] theorem hostOut_blData (r : HostRecord) : (hostOut r s).blData = s.blData := rfl
@[simp] theorem hostOut_blRetry (r : HostRecord) : (hostOut r s).blRetry = s.blRetry := rfl
@[simp] theorem hostOut_opState (r : HostRecord) : (hostOut r s).opState = s.opState := rfl
@[simp] theorem hostOut_seqIdx (r : HostRecord) : (hostOut r s).seqIdx = s.seqIdx := rfl
@[simp] theorem hostOut_seqPresent (r : HostRecord) : (hostOut r s).seqPresent = s.seqPresent := rfl
@[simp] theorem hostOut_seqResults (r : HostRecord) : (hostOut r s).seqResults = s.seqResults := rfl
@[simp] theorem hostOut_seqMismatch (r : HostRecord) : (hostOut r s).seqMismatch = s.seqMismatch := rfl
@[simp] theorem hostOut_hostIn (r : HostRecord) : (hostOut r s).hostIn = s.hostIn := rfl
@[simp] theorem hostOut_rx (r : HostRecord) : (hostOut r s).rx = s.rx := rfl
@[simp] theorem hostOut_stop (r : HostRecord) : (hostOut r s).stop = s.stop := rfl
@[simp] theorem hostOut_stopNext (r : HostRecord) : (hostOut r s).stopNext = s.stopNext := rfl
@[simp] theorem hostOut_image (r : HostRecord) : (hostOut r s).image = s.image := rfl
@[simp] theorem hostOut_portLog (r : HostRecord) : (hostOut r s).portLog = s.portLog ++ [.out r] := rfl

/-! ## stopSample -/

@[simp] theorem stopSample_cfg : (stopSample s).cfg = s.cfg := rfl
@[simp] theorem stopSample_crcAcc : (stopSample s).crcAcc = s.crcAcc := rfl
@[simp] theorem stopSample_rxState : (stopSample s).rxState = s.rxState := rfl
@[simp] theorem stopSample_rxHdr : (stopSample s).rxHdr = s.rxHdr := rfl
@[simp] theorem stopSample_rxHcnt : (stopSample s).rxHcnt = s.rxHcnt := rfl
@[simp] theorem stopSample_rxPay : (stopSample s).rxPay = s.rxPay := rfl
@[simp] theorem stopSample_rxPcnt : (stopSample s).rxPcnt = s.rxPcnt := rfl
@[simp] theorem stopSample_rxCrc : (stopSample s).rxCrc = s.rxCrc := rfl
@[simp] theorem stopSample_sesAddr : (stopSample s).sesAddr = s.sesAddr := rfl
@[simp] theorem stopSample_sesCmd : (stopSample s).sesCmd = s.sesCmd := rfl
@[simp] theorem stopSample_sesReq : (stopSample s).sesReq = s.sesReq := rfl
@[simp] theorem stopSample_tmoSel : (stopSample s).tmoSel = s.tmoSel := rfl
@[simp] theorem stopSample_blCursor : (stopSample s).blCursor = s.blCursor := rfl
@[simp] theorem stopSample_blCursorValid : (stopSample s).blCursorValid = s.blCursorValid := rfl
@[simp] theorem stopSample_blData : (stopSample s).blData = s.blData := rfl
@[simp] theorem stopSample_blRetry : (stopSample s).blRetry = s.blRetry := rfl
@[simp] theorem stopSample_opState : (stopSample s).opState = s.opState := rfl
@[simp] theorem stopSample_seqIdx : (stopSample s).seqIdx = s.seqIdx := rfl
@[simp] theorem stopSample_seqPresent : (stopSample s).seqPresent = s.seqPresent := rfl
@[simp] theorem stopSample_seqResults : (stopSample s).seqResults = s.seqResults := rfl
@[simp] theorem stopSample_seqMismatch : (stopSample s).seqMismatch = s.seqMismatch := rfl
@[simp] theorem stopSample_hostIn : (stopSample s).hostIn = s.hostIn := rfl
@[simp] theorem stopSample_rx : (stopSample s).rx = s.rx := rfl
@[simp] theorem stopSample_stop : (stopSample s).stop = stopLevel s := rfl
@[simp] theorem stopSample_stopNext : (stopSample s).stopNext = s.stopNext.tail := rfl
@[simp] theorem stopSample_image : (stopSample s).image = s.image := rfl
@[simp] theorem stopSample_portLog : (stopSample s).portLog = s.portLog ++ [.stop (stopLevel s)] := rfl

/-! ## hdrWrite -/

@[simp] theorem hdrWrite_cfg (i : Nat) (v : Byte) : (hdrWrite i v s).cfg = s.cfg := rfl
@[simp] theorem hdrWrite_crcAcc (i : Nat) (v : Byte) : (hdrWrite i v s).crcAcc = s.crcAcc := rfl
@[simp] theorem hdrWrite_rxState (i : Nat) (v : Byte) : (hdrWrite i v s).rxState = s.rxState := rfl
@[simp] theorem hdrWrite_rxHdr (i : Nat) (v : Byte) : (hdrWrite i v s).rxHdr = s.rxHdr.setIfInBounds i v := rfl
@[simp] theorem hdrWrite_rxHcnt (i : Nat) (v : Byte) : (hdrWrite i v s).rxHcnt = s.rxHcnt := rfl
@[simp] theorem hdrWrite_rxPay (i : Nat) (v : Byte) : (hdrWrite i v s).rxPay = s.rxPay := rfl
@[simp] theorem hdrWrite_rxPcnt (i : Nat) (v : Byte) : (hdrWrite i v s).rxPcnt = s.rxPcnt := rfl
@[simp] theorem hdrWrite_rxCrc (i : Nat) (v : Byte) : (hdrWrite i v s).rxCrc = s.rxCrc := rfl
@[simp] theorem hdrWrite_sesAddr (i : Nat) (v : Byte) : (hdrWrite i v s).sesAddr = s.sesAddr := rfl
@[simp] theorem hdrWrite_sesCmd (i : Nat) (v : Byte) : (hdrWrite i v s).sesCmd = s.sesCmd := rfl
@[simp] theorem hdrWrite_sesReq (i : Nat) (v : Byte) : (hdrWrite i v s).sesReq = s.sesReq := rfl
@[simp] theorem hdrWrite_tmoSel (i : Nat) (v : Byte) : (hdrWrite i v s).tmoSel = s.tmoSel := rfl
@[simp] theorem hdrWrite_blCursor (i : Nat) (v : Byte) : (hdrWrite i v s).blCursor = s.blCursor := rfl
@[simp] theorem hdrWrite_blCursorValid (i : Nat) (v : Byte) : (hdrWrite i v s).blCursorValid = s.blCursorValid := rfl
@[simp] theorem hdrWrite_blData (i : Nat) (v : Byte) : (hdrWrite i v s).blData = s.blData := rfl
@[simp] theorem hdrWrite_blRetry (i : Nat) (v : Byte) : (hdrWrite i v s).blRetry = s.blRetry := rfl
@[simp] theorem hdrWrite_opState (i : Nat) (v : Byte) : (hdrWrite i v s).opState = s.opState := rfl
@[simp] theorem hdrWrite_seqIdx (i : Nat) (v : Byte) : (hdrWrite i v s).seqIdx = s.seqIdx := rfl
@[simp] theorem hdrWrite_seqPresent (i : Nat) (v : Byte) : (hdrWrite i v s).seqPresent = s.seqPresent := rfl
@[simp] theorem hdrWrite_seqResults (i : Nat) (v : Byte) : (hdrWrite i v s).seqResults = s.seqResults := rfl
@[simp] theorem hdrWrite_seqMismatch (i : Nat) (v : Byte) : (hdrWrite i v s).seqMismatch = s.seqMismatch := rfl
@[simp] theorem hdrWrite_hostIn (i : Nat) (v : Byte) : (hdrWrite i v s).hostIn = s.hostIn := rfl
@[simp] theorem hdrWrite_rx (i : Nat) (v : Byte) : (hdrWrite i v s).rx = s.rx := rfl
@[simp] theorem hdrWrite_stop (i : Nat) (v : Byte) : (hdrWrite i v s).stop = s.stop := rfl
@[simp] theorem hdrWrite_stopNext (i : Nat) (v : Byte) : (hdrWrite i v s).stopNext = s.stopNext := rfl
@[simp] theorem hdrWrite_image (i : Nat) (v : Byte) : (hdrWrite i v s).image = s.image := rfl
@[simp] theorem hdrWrite_portLog (i : Nat) (v : Byte) : (hdrWrite i v s).portLog = s.portLog := rfl

/-! ## payWrite -/

@[simp] theorem payWrite_cfg (i : Nat) (v : Byte) : (payWrite i v s).cfg = s.cfg := rfl
@[simp] theorem payWrite_crcAcc (i : Nat) (v : Byte) : (payWrite i v s).crcAcc = s.crcAcc := rfl
@[simp] theorem payWrite_rxState (i : Nat) (v : Byte) : (payWrite i v s).rxState = s.rxState := rfl
@[simp] theorem payWrite_rxHdr (i : Nat) (v : Byte) : (payWrite i v s).rxHdr = s.rxHdr := rfl
@[simp] theorem payWrite_rxHcnt (i : Nat) (v : Byte) : (payWrite i v s).rxHcnt = s.rxHcnt := rfl
@[simp] theorem payWrite_rxPay (i : Nat) (v : Byte) : (payWrite i v s).rxPay = s.rxPay.setIfInBounds i v := rfl
@[simp] theorem payWrite_rxPcnt (i : Nat) (v : Byte) : (payWrite i v s).rxPcnt = s.rxPcnt := rfl
@[simp] theorem payWrite_rxCrc (i : Nat) (v : Byte) : (payWrite i v s).rxCrc = s.rxCrc := rfl
@[simp] theorem payWrite_sesAddr (i : Nat) (v : Byte) : (payWrite i v s).sesAddr = s.sesAddr := rfl
@[simp] theorem payWrite_sesCmd (i : Nat) (v : Byte) : (payWrite i v s).sesCmd = s.sesCmd := rfl
@[simp] theorem payWrite_sesReq (i : Nat) (v : Byte) : (payWrite i v s).sesReq = s.sesReq := rfl
@[simp] theorem payWrite_tmoSel (i : Nat) (v : Byte) : (payWrite i v s).tmoSel = s.tmoSel := rfl
@[simp] theorem payWrite_blCursor (i : Nat) (v : Byte) : (payWrite i v s).blCursor = s.blCursor := rfl
@[simp] theorem payWrite_blCursorValid (i : Nat) (v : Byte) : (payWrite i v s).blCursorValid = s.blCursorValid := rfl
@[simp] theorem payWrite_blData (i : Nat) (v : Byte) : (payWrite i v s).blData = s.blData := rfl
@[simp] theorem payWrite_blRetry (i : Nat) (v : Byte) : (payWrite i v s).blRetry = s.blRetry := rfl
@[simp] theorem payWrite_opState (i : Nat) (v : Byte) : (payWrite i v s).opState = s.opState := rfl
@[simp] theorem payWrite_seqIdx (i : Nat) (v : Byte) : (payWrite i v s).seqIdx = s.seqIdx := rfl
@[simp] theorem payWrite_seqPresent (i : Nat) (v : Byte) : (payWrite i v s).seqPresent = s.seqPresent := rfl
@[simp] theorem payWrite_seqResults (i : Nat) (v : Byte) : (payWrite i v s).seqResults = s.seqResults := rfl
@[simp] theorem payWrite_seqMismatch (i : Nat) (v : Byte) : (payWrite i v s).seqMismatch = s.seqMismatch := rfl
@[simp] theorem payWrite_hostIn (i : Nat) (v : Byte) : (payWrite i v s).hostIn = s.hostIn := rfl
@[simp] theorem payWrite_rx (i : Nat) (v : Byte) : (payWrite i v s).rx = s.rx := rfl
@[simp] theorem payWrite_stop (i : Nat) (v : Byte) : (payWrite i v s).stop = s.stop := rfl
@[simp] theorem payWrite_stopNext (i : Nat) (v : Byte) : (payWrite i v s).stopNext = s.stopNext := rfl
@[simp] theorem payWrite_image (i : Nat) (v : Byte) : (payWrite i v s).image = s.image := rfl
@[simp] theorem payWrite_portLog (i : Nat) (v : Byte) : (payWrite i v s).portLog = s.portLog := rfl

/-! ## rxCrcFeed -/

@[simp] theorem rxCrcFeed_cfg (b : Byte) : (rxCrcFeed b s).cfg = s.cfg := rfl
@[simp] theorem rxCrcFeed_crcAcc (b : Byte) : (rxCrcFeed b s).crcAcc = s.crcAcc := rfl
@[simp] theorem rxCrcFeed_rxState (b : Byte) : (rxCrcFeed b s).rxState = s.rxState := rfl
@[simp] theorem rxCrcFeed_rxHdr (b : Byte) : (rxCrcFeed b s).rxHdr = s.rxHdr := rfl
@[simp] theorem rxCrcFeed_rxHcnt (b : Byte) : (rxCrcFeed b s).rxHcnt = s.rxHcnt := rfl
@[simp] theorem rxCrcFeed_rxPay (b : Byte) : (rxCrcFeed b s).rxPay = s.rxPay := rfl
@[simp] theorem rxCrcFeed_rxPcnt (b : Byte) : (rxCrcFeed b s).rxPcnt = s.rxPcnt := rfl
@[simp] theorem rxCrcFeed_rxCrc (b : Byte) : (rxCrcFeed b s).rxCrc = crc8Step s.cfg s.rxCrc b := rfl
@[simp] theorem rxCrcFeed_sesAddr (b : Byte) : (rxCrcFeed b s).sesAddr = s.sesAddr := rfl
@[simp] theorem rxCrcFeed_sesCmd (b : Byte) : (rxCrcFeed b s).sesCmd = s.sesCmd := rfl
@[simp] theorem rxCrcFeed_sesReq (b : Byte) : (rxCrcFeed b s).sesReq = s.sesReq := rfl
@[simp] theorem rxCrcFeed_tmoSel (b : Byte) : (rxCrcFeed b s).tmoSel = s.tmoSel := rfl
@[simp] theorem rxCrcFeed_blCursor (b : Byte) : (rxCrcFeed b s).blCursor = s.blCursor := rfl
@[simp] theorem rxCrcFeed_blCursorValid (b : Byte) : (rxCrcFeed b s).blCursorValid = s.blCursorValid := rfl
@[simp] theorem rxCrcFeed_blData (b : Byte) : (rxCrcFeed b s).blData = s.blData := rfl
@[simp] theorem rxCrcFeed_blRetry (b : Byte) : (rxCrcFeed b s).blRetry = s.blRetry := rfl
@[simp] theorem rxCrcFeed_opState (b : Byte) : (rxCrcFeed b s).opState = s.opState := rfl
@[simp] theorem rxCrcFeed_seqIdx (b : Byte) : (rxCrcFeed b s).seqIdx = s.seqIdx := rfl
@[simp] theorem rxCrcFeed_seqPresent (b : Byte) : (rxCrcFeed b s).seqPresent = s.seqPresent := rfl
@[simp] theorem rxCrcFeed_seqResults (b : Byte) : (rxCrcFeed b s).seqResults = s.seqResults := rfl
@[simp] theorem rxCrcFeed_seqMismatch (b : Byte) : (rxCrcFeed b s).seqMismatch = s.seqMismatch := rfl
@[simp] theorem rxCrcFeed_hostIn (b : Byte) : (rxCrcFeed b s).hostIn = s.hostIn := rfl
@[simp] theorem rxCrcFeed_rx (b : Byte) : (rxCrcFeed b s).rx = s.rx := rfl
@[simp] theorem rxCrcFeed_stop (b : Byte) : (rxCrcFeed b s).stop = s.stop := rfl
@[simp] theorem rxCrcFeed_stopNext (b : Byte) : (rxCrcFeed b s).stopNext = s.stopNext := rfl
@[simp] theorem rxCrcFeed_image (b : Byte) : (rxCrcFeed b s).image = s.image := rfl
@[simp] theorem rxCrcFeed_portLog (b : Byte) : (rxCrcFeed b s).portLog = s.portLog := rfl

/-! ## result -/

@[simp] theorem result_cfg (c : ResultCode) (d : ResultData) : (result c d s).cfg = s.cfg := rfl
@[simp] theorem result_crcAcc (c : ResultCode) (d : ResultData) : (result c d s).crcAcc = s.crcAcc := rfl
@[simp] theorem result_rxState (c : ResultCode) (d : ResultData) : (result c d s).rxState = s.rxState := rfl
@[simp] theorem result_rxHdr (c : ResultCode) (d : ResultData) : (result c d s).rxHdr = s.rxHdr := rfl
@[simp] theorem result_rxHcnt (c : ResultCode) (d : ResultData) : (result c d s).rxHcnt = s.rxHcnt := rfl
@[simp] theorem result_rxPay (c : ResultCode) (d : ResultData) : (result c d s).rxPay = s.rxPay := rfl
@[simp] theorem result_rxPcnt (c : ResultCode) (d : ResultData) : (result c d s).rxPcnt = s.rxPcnt := rfl
@[simp] theorem result_rxCrc (c : ResultCode) (d : ResultData) : (result c d s).rxCrc = s.rxCrc := rfl
@[simp] theorem result_sesAddr (c : ResultCode) (d : ResultData) : (result c d s).sesAddr = s.sesAddr := rfl
@[simp] theorem result_sesCmd (c : ResultCode) (d : ResultData) : (result c d s).sesCmd = s.sesCmd := rfl
@[simp] theorem result_sesReq (c : ResultCode) (d : ResultData) : (result c d s).sesReq = s.sesReq := rfl
@[simp] theorem result_tmoSel (c : ResultCode) (d : ResultData) : (result c d s).tmoSel = s.tmoSel := rfl
@[simp] theorem result_blCursor (c : ResultCode) (d : ResultData) : (result c d s).blCursor = s.blCursor := rfl
@[simp] theorem result_blCursorValid (c : ResultCode) (d : ResultData) : (result c d s).blCursorValid = s.blCursorValid := rfl
@[simp] theorem result_blData (c : ResultCode) (d : ResultData) : (result c d s).blData = s.blData := rfl
@[simp] theorem result_blRetry (c : ResultCode) (d : ResultData) : (result c d s).blRetry = s.blRetry := rfl
@[simp] theorem result_opState (c : ResultCode) (d : ResultData) : (result c d s).opState = .idle := rfl
@[simp] theorem result_seqIdx (c : ResultCode) (d : ResultData) : (result c d s).seqIdx = s.seqIdx := rfl
@[simp] theorem result_seqPresent (c : ResultCode) (d : ResultData) : (result c d s).seqPresent = s.seqPresent := rfl
@[simp] theorem result_seqResults (c : ResultCode) (d : ResultData) : (result c d s).seqResults = s.seqResults := rfl
@[simp] theorem result_seqMismatch (c : ResultCode) (d : ResultData) : (result c d s).seqMismatch = s.seqMismatch := rfl
@[simp] theorem result_hostIn (c : ResultCode) (d : ResultData) : (result c d s).hostIn = s.hostIn := rfl
@[simp] theorem result_rx (c : ResultCode) (d : ResultData) : (result c d s).rx = s.rx := rfl
@[simp] theorem result_stop (c : ResultCode) (d : ResultData) : (result c d s).stop = s.stop := rfl
@[simp] theorem result_stopNext (c : ResultCode) (d : ResultData) : (result c d s).stopNext = s.stopNext := rfl
@[simp] theorem result_image (c : ResultCode) (d : ResultData) : (result c d s).image = s.image := rfl
@[simp] theorem result_portLog (c : ResultCode) (d : ResultData) : (result c d s).portLog = s.portLog ++ [.out (.result c d)] := rfl

/-! ## raiseFail -/

@[simp] theorem raiseFail_cfg (c : ResultCode) (d : ResultData) : (raiseFail c d s).cfg = s.cfg := rfl
@[simp] theorem raiseFail_crcAcc (c : ResultCode) (d : ResultData) : (raiseFail c d s).crcAcc = s.crcAcc := rfl
@[simp] theorem raiseFail_rxState (c : ResultCode) (d : ResultData) : (raiseFail c d s).rxState = s.rxState := rfl
@[simp] theorem raiseFail_rxHdr (c : ResultCode) (d : ResultData) : (raiseFail c d s).rxHdr = s.rxHdr := rfl
@[simp] theorem raiseFail_rxHcnt (c : ResultCode) (d : ResultData) : (raiseFail c d s).rxHcnt = s.rxHcnt := rfl
@[simp] theorem raiseFail_rxPay (c : ResultCode) (d : ResultData) : (raiseFail c d s).rxPay = s.rxPay := rfl
@[simp] theorem raiseFail_rxPcnt (c : ResultCode) (d : ResultData) : (raiseFail c d s).rxPcnt = s.rxPcnt := rfl
@[simp] theorem raiseFail_rxCrc (c : ResultCode) (d : ResultData) : (raiseFail c d s).rxCrc = s.rxCrc := rfl
@[simp] theorem raiseFail_sesAddr (c : ResultCode) (d : ResultData) : (raiseFail c d s).sesAddr = s.sesAddr := rfl
@[simp] theorem raiseFail_sesCmd (c : ResultCode) (d : ResultData) : (raiseFail c d s).sesCmd = s.sesCmd := rfl
@[simp] theorem raiseFail_sesReq (c : ResultCode) (d : ResultData) : (raiseFail c d s).sesReq = s.sesReq := rfl
@[simp] theorem raiseFail_tmoSel (c : ResultCode) (d : ResultData) : (raiseFail c d s).tmoSel = s.tmoSel := rfl
@[simp] theorem raiseFail_blCursor (c : ResultCode) (d : ResultData) : (raiseFail c d s).blCursor = s.blCursor := rfl
@[simp] theorem raiseFail_blCursorValid (c : ResultCode) (d : ResultData) : (raiseFail c d s).blCursorValid = s.blCursorValid := rfl
@[simp] theorem raiseFail_blData (c : ResultCode) (d : ResultData) : (raiseFail c d s).blData = s.blData := rfl
@[simp] theorem raiseFail_blRetry (c : ResultCode) (d : ResultData) : (raiseFail c d s).blRetry = s.blRetry := rfl
@[simp] theorem raiseFail_opState (c : ResultCode) (d : ResultData) : (raiseFail c d s).opState = .idle := rfl
@[simp] theorem raiseFail_seqIdx (c : ResultCode) (d : ResultData) : (raiseFail c d s).seqIdx = s.seqIdx := rfl
@[simp] theorem raiseFail_seqPresent (c : ResultCode) (d : ResultData) : (raiseFail c d s).seqPresent = s.seqPresent := rfl
@[simp] theorem raiseFail_seqResults (c : ResultCode) (d : ResultData) : (raiseFail c d s).seqResults = s.seqResults := rfl
@[simp] theorem raiseFail_seqMismatch (c : ResultCode) (d : ResultData) : (raiseFail c d s).seqMismatch = s.seqMismatch := rfl
@[simp] theorem raiseFail_hostIn (c : ResultCode) (d : ResultData) : (raiseFail c d s).hostIn = s.hostIn := rfl
@[simp] theorem raiseFail_rx (c : ResultCode) (d : ResultData) : (raiseFail c d s).rx = s.rx := rfl
@[simp] theorem raiseFail_stop (c : ResultCode) (d : ResultData) : (raiseFail c d s).stop = s.stop := rfl
@[simp] theorem raiseFail_stopNext (c : ResultCode) (d : ResultData) : (raiseFail c d s).stopNext = s.stopNext := rfl
@[simp] theorem raiseFail_image (c : ResultCode) (d : ResultData) : (raiseFail c d s).image = s.image := rfl
@[simp] theorem raiseFail_portLog (c : ResultCode) (d : ResultData) : (raiseFail c d s).portLog = s.portLog ++ [.out (.result c d)] := rfl

/-! ## waitAt -/

@[simp] theorem waitAt_cfg (p : Pos) : (waitAt p s).cfg = s.cfg := rfl
@[simp] theorem waitAt_crcAcc (p : Pos) : (waitAt p s).crcAcc = s.crcAcc := rfl
@[simp] theorem waitAt_rxState (p : Pos) : (waitAt p s).rxState = s.rxState := rfl
@[simp] theorem waitAt_rxHdr (p : Pos) : (waitAt p s).rxHdr = s.rxHdr := rfl
@[simp] theorem waitAt_rxHcnt (p : Pos) : (waitAt p s).rxHcnt = s.rxHcnt := rfl
@[simp] theorem waitAt_rxPay (p : Pos) : (waitAt p s).rxPay = s.rxPay := rfl
@[simp] theorem waitAt_rxPcnt (p : Pos) : (waitAt p s).rxPcnt = s.rxPcnt := rfl
@[simp] theorem waitAt_rxCrc (p : Pos) : (waitAt p s).rxCrc = s.rxCrc := rfl
@[simp] theorem waitAt_sesAddr (p : Pos) : (waitAt p s).sesAddr = s.sesAddr := rfl
@[simp] theorem waitAt_sesCmd (p : Pos) : (waitAt p s).sesCmd = s.sesCmd := rfl
@[simp] theorem waitAt_sesReq (p : Pos) : (waitAt p s).sesReq = s.sesReq := rfl
@[simp] theorem waitAt_tmoSel (p : Pos) : (waitAt p s).tmoSel = s.tmoSel := rfl
@[simp] theorem waitAt_blCursor (p : Pos) : (waitAt p s).blCursor = s.blCursor := rfl
@[simp] theorem waitAt_blCursorValid (p : Pos) : (waitAt p s).blCursorValid = s.blCursorValid := rfl
@[simp] theorem waitAt_blData (p : Pos) : (waitAt p s).blData = s.blData := rfl
@[simp] theorem waitAt_blRetry (p : Pos) : (waitAt p s).blRetry = s.blRetry := rfl
@[simp] theorem waitAt_opState (p : Pos) : (waitAt p s).opState = .busy p := rfl
@[simp] theorem waitAt_seqIdx (p : Pos) : (waitAt p s).seqIdx = s.seqIdx := rfl
@[simp] theorem waitAt_seqPresent (p : Pos) : (waitAt p s).seqPresent = s.seqPresent := rfl
@[simp] theorem waitAt_seqResults (p : Pos) : (waitAt p s).seqResults = s.seqResults := rfl
@[simp] theorem waitAt_seqMismatch (p : Pos) : (waitAt p s).seqMismatch = s.seqMismatch := rfl
@[simp] theorem waitAt_hostIn (p : Pos) : (waitAt p s).hostIn = s.hostIn := rfl
@[simp] theorem waitAt_rx (p : Pos) : (waitAt p s).rx = s.rx := rfl
@[simp] theorem waitAt_stop (p : Pos) : (waitAt p s).stop = s.stop := rfl
@[simp] theorem waitAt_stopNext (p : Pos) : (waitAt p s).stopNext = s.stopNext := rfl
@[simp] theorem waitAt_image (p : Pos) : (waitAt p s).image = s.image := rfl
@[simp] theorem waitAt_portLog (p : Pos) : (waitAt p s).portLog = s.portLog := rfl

/-! ## writeAck -/

@[simp] theorem writeAck_cfg : (writeAck s).cfg = s.cfg := rfl
@[simp] theorem writeAck_crcAcc : (writeAck s).crcAcc = s.crcAcc := rfl
@[simp] theorem writeAck_rxState : (writeAck s).rxState = s.rxState := rfl
@[simp] theorem writeAck_rxHdr : (writeAck s).rxHdr = s.rxHdr := rfl
@[simp] theorem writeAck_rxHcnt : (writeAck s).rxHcnt = s.rxHcnt := rfl
@[simp] theorem writeAck_rxPay : (writeAck s).rxPay = s.rxPay := rfl
@[simp] theorem writeAck_rxPcnt : (writeAck s).rxPcnt = s.rxPcnt := rfl
@[simp] theorem writeAck_rxCrc : (writeAck s).rxCrc = s.rxCrc := rfl
@[simp] theorem writeAck_sesAddr : (writeAck s).sesAddr = s.sesAddr := rfl
@[simp] theorem writeAck_sesCmd : (writeAck s).sesCmd = s.sesCmd := rfl
@[simp] theorem writeAck_sesReq : (writeAck s).sesReq = s.sesReq := rfl
@[simp] theorem writeAck_tmoSel : (writeAck s).tmoSel = .normal := rfl
@[simp] theorem writeAck_blCursor : (writeAck s).blCursor = s.blCursor := rfl
@[simp] theorem writeAck_blCursorValid : (writeAck s).blCursorValid = false := rfl
@[simp] theorem writeAck_blData : (writeAck s).blData = s.blData := rfl
@[simp] theorem writeAck_blRetry : (writeAck s).blRetry = s.blRetry := rfl
@[simp] theorem writeAck_opState : (writeAck s).opState = s.opState := rfl
@[simp] theorem writeAck_seqIdx : (writeAck s).seqIdx = s.seqIdx := rfl
@[simp] theorem writeAck_seqPresent : (writeAck s).seqPresent = s.seqPresent := rfl
@[simp] theorem writeAck_seqResults : (writeAck s).seqResults = s.seqResults := rfl
@[simp] theorem writeAck_seqMismatch : (writeAck s).seqMismatch = s.seqMismatch := rfl
@[simp] theorem writeAck_hostIn : (writeAck s).hostIn = s.hostIn := rfl
@[simp] theorem writeAck_rx : (writeAck s).rx = s.rx := rfl
@[simp] theorem writeAck_stop : (writeAck s).stop = s.stop := rfl
@[simp] theorem writeAck_stopNext : (writeAck s).stopNext = s.stopNext := rfl
@[simp] theorem writeAck_image : (writeAck s).image = s.image := rfl
@[simp] theorem writeAck_portLog : (writeAck s).portLog = s.portLog ++ [.tmoSel .normal] := rfl

/-! ## addMismatch -/

@[simp] theorem addMismatch_cfg (b : Word32) : (addMismatch b s).cfg = s.cfg := rfl
@[simp] theorem addMismatch_crcAcc (b : Word32) : (addMismatch b s).crcAcc = s.crcAcc := rfl
@[simp] theorem addMismatch_rxState (b : Word32) : (addMismatch b s).rxState = s.rxState := rfl
@[simp] theorem addMismatch_rxHdr (b : Word32) : (addMismatch b s).rxHdr = s.rxHdr := rfl
@[simp] theorem addMismatch_rxHcnt (b : Word32) : (addMismatch b s).rxHcnt = s.rxHcnt := rfl
@[simp] theorem addMismatch_rxPay (b : Word32) : (addMismatch b s).rxPay = s.rxPay := rfl
@[simp] theorem addMismatch_rxPcnt (b : Word32) : (addMismatch b s).rxPcnt = s.rxPcnt := rfl
@[simp] theorem addMismatch_rxCrc (b : Word32) : (addMismatch b s).rxCrc = s.rxCrc := rfl
@[simp] theorem addMismatch_sesAddr (b : Word32) : (addMismatch b s).sesAddr = s.sesAddr := rfl
@[simp] theorem addMismatch_sesCmd (b : Word32) : (addMismatch b s).sesCmd = s.sesCmd := rfl
@[simp] theorem addMismatch_sesReq (b : Word32) : (addMismatch b s).sesReq = s.sesReq := rfl
@[simp] theorem addMismatch_tmoSel (b : Word32) : (addMismatch b s).tmoSel = s.tmoSel := rfl
@[simp] theorem addMismatch_blCursor (b : Word32) : (addMismatch b s).blCursor = s.blCursor := rfl
@[simp] theorem addMismatch_blCursorValid (b : Word32) : (addMismatch b s).blCursorValid = s.blCursorValid := rfl
@[simp] theorem addMismatch_blData (b : Word32) : (addMismatch b s).blData = s.blData := rfl
@[simp] theorem addMismatch_blRetry (b : Word32) : (addMismatch b s).blRetry = s.blRetry := rfl
@[simp] theorem addMismatch_opState (b : Word32) : (addMismatch b s).opState = s.opState := rfl
@[simp] theorem addMismatch_seqIdx (b : Word32) : (addMismatch b s).seqIdx = s.seqIdx := rfl
@[simp] theorem addMismatch_seqPresent (b : Word32) : (addMismatch b s).seqPresent = s.seqPresent := rfl
@[simp] theorem addMismatch_seqResults (b : Word32) : (addMismatch b s).seqResults = s.seqResults := rfl
@[simp] theorem addMismatch_seqMismatch (b : Word32) : (addMismatch b s).seqMismatch = s.seqMismatch ++ [b] := rfl
@[simp] theorem addMismatch_hostIn (b : Word32) : (addMismatch b s).hostIn = s.hostIn := rfl
@[simp] theorem addMismatch_rx (b : Word32) : (addMismatch b s).rx = s.rx := rfl
@[simp] theorem addMismatch_stop (b : Word32) : (addMismatch b s).stop = s.stop := rfl
@[simp] theorem addMismatch_stopNext (b : Word32) : (addMismatch b s).stopNext = s.stopNext := rfl
@[simp] theorem addMismatch_image (b : Word32) : (addMismatch b s).image = s.image := rfl
@[simp] theorem addMismatch_portLog (b : Word32) : (addMismatch b s).portLog = s.portLog := rfl

/-! ## setRx -/

@[simp] theorem setRx_cfg (r : List RxEvent) : (setRx r s).cfg = s.cfg := rfl
@[simp] theorem setRx_crcAcc (r : List RxEvent) : (setRx r s).crcAcc = s.crcAcc := rfl
@[simp] theorem setRx_rxState (r : List RxEvent) : (setRx r s).rxState = s.rxState := rfl
@[simp] theorem setRx_rxHdr (r : List RxEvent) : (setRx r s).rxHdr = s.rxHdr := rfl
@[simp] theorem setRx_rxHcnt (r : List RxEvent) : (setRx r s).rxHcnt = s.rxHcnt := rfl
@[simp] theorem setRx_rxPay (r : List RxEvent) : (setRx r s).rxPay = s.rxPay := rfl
@[simp] theorem setRx_rxPcnt (r : List RxEvent) : (setRx r s).rxPcnt = s.rxPcnt := rfl
@[simp] theorem setRx_rxCrc (r : List RxEvent) : (setRx r s).rxCrc = s.rxCrc := rfl
@[simp] theorem setRx_sesAddr (r : List RxEvent) : (setRx r s).sesAddr = s.sesAddr := rfl
@[simp] theorem setRx_sesCmd (r : List RxEvent) : (setRx r s).sesCmd = s.sesCmd := rfl
@[simp] theorem setRx_sesReq (r : List RxEvent) : (setRx r s).sesReq = s.sesReq := rfl
@[simp] theorem setRx_tmoSel (r : List RxEvent) : (setRx r s).tmoSel = s.tmoSel := rfl
@[simp] theorem setRx_blCursor (r : List RxEvent) : (setRx r s).blCursor = s.blCursor := rfl
@[simp] theorem setRx_blCursorValid (r : List RxEvent) : (setRx r s).blCursorValid = s.blCursorValid := rfl
@[simp] theorem setRx_blData (r : List RxEvent) : (setRx r s).blData = s.blData := rfl
@[simp] theorem setRx_blRetry (r : List RxEvent) : (setRx r s).blRetry = s.blRetry := rfl
@[simp] theorem setRx_opState (r : List RxEvent) : (setRx r s).opState = s.opState := rfl
@[simp] theorem setRx_seqIdx (r : List RxEvent) : (setRx r s).seqIdx = s.seqIdx := rfl
@[simp] theorem setRx_seqPresent (r : List RxEvent) : (setRx r s).seqPresent = s.seqPresent := rfl
@[simp] theorem setRx_seqResults (r : List RxEvent) : (setRx r s).seqResults = s.seqResults := rfl
@[simp] theorem setRx_seqMismatch (r : List RxEvent) : (setRx r s).seqMismatch = s.seqMismatch := rfl
@[simp] theorem setRx_hostIn (r : List RxEvent) : (setRx r s).hostIn = s.hostIn := rfl
@[simp] theorem setRx_rx (r : List RxEvent) : (setRx r s).rx = r := rfl
@[simp] theorem setRx_stop (r : List RxEvent) : (setRx r s).stop = s.stop := rfl
@[simp] theorem setRx_stopNext (r : List RxEvent) : (setRx r s).stopNext = s.stopNext := rfl
@[simp] theorem setRx_image (r : List RxEvent) : (setRx r s).image = s.image := rfl
@[simp] theorem setRx_portLog (r : List RxEvent) : (setRx r s).portLog = s.portLog := rfl

/-! ## setOp -/

@[simp] theorem setOp_cfg (o : OpState) : (setOp o s).cfg = s.cfg := rfl
@[simp] theorem setOp_crcAcc (o : OpState) : (setOp o s).crcAcc = s.crcAcc := rfl
@[simp] theorem setOp_rxState (o : OpState) : (setOp o s).rxState = s.rxState := rfl
@[simp] theorem setOp_rxHdr (o : OpState) : (setOp o s).rxHdr = s.rxHdr := rfl
@[simp] theorem setOp_rxHcnt (o : OpState) : (setOp o s).rxHcnt = s.rxHcnt := rfl
@[simp] theorem setOp_rxPay (o : OpState) : (setOp o s).rxPay = s.rxPay := rfl
@[simp] theorem setOp_rxPcnt (o : OpState) : (setOp o s).rxPcnt = s.rxPcnt := rfl
@[simp] theorem setOp_rxCrc (o : OpState) : (setOp o s).rxCrc = s.rxCrc := rfl
@[simp] theorem setOp_sesAddr (o : OpState) : (setOp o s).sesAddr = s.sesAddr := rfl
@[simp] theorem setOp_sesCmd (o : OpState) : (setOp o s).sesCmd = s.sesCmd := rfl
@[simp] theorem setOp_sesReq (o : OpState) : (setOp o s).sesReq = s.sesReq := rfl
@[simp] theorem setOp_tmoSel (o : OpState) : (setOp o s).tmoSel = s.tmoSel := rfl
@[simp] theorem setOp_blCursor (o : OpState) : (setOp o s).blCursor = s.blCursor := rfl
@[simp] theorem setOp_blCursorValid (o : OpState) : (setOp o s).blCursorValid = s.blCursorValid := rfl
@[simp] theorem setOp_blData (o : OpState) : (setOp o s).blData = s.blData := rfl
@[simp] theorem setOp_blRetry (o : OpState) : (setOp o s).blRetry = s.blRetry := rfl
@[simp] theorem setOp_opState (o : OpState) : (setOp o s).opState = o := rfl
@[simp] theorem setOp_seqIdx (o : OpState) : (setOp o s).seqIdx = s.seqIdx := rfl
@[simp] theorem setOp_seqPresent (o : OpState) : (setOp o s).seqPresent = s.seqPresent := rfl
@[simp] theorem setOp_seqResults (o : OpState) : (setOp o s).seqResults = s.seqResults := rfl
@[simp] theorem setOp_seqMismatch (o : OpState) : (setOp o s).seqMismatch = s.seqMismatch := rfl
@[simp] theorem setOp_hostIn (o : OpState) : (setOp o s).hostIn = s.hostIn := rfl
@[simp] theorem setOp_rx (o : OpState) : (setOp o s).rx = s.rx := rfl
@[simp] theorem setOp_stop (o : OpState) : (setOp o s).stop = s.stop := rfl
@[simp] theorem setOp_stopNext (o : OpState) : (setOp o s).stopNext = s.stopNext := rfl
@[simp] theorem setOp_image (o : OpState) : (setOp o s).image = s.image := rfl
@[simp] theorem setOp_portLog (o : OpState) : (setOp o s).portLog = s.portLog := rfl

end Sys2Proof.Machine
end

