-- ==== Sys2Proof/Laws/Crc.lean ====
section
/-!
SUPPORT. The CRC function over sequences (40_crc8.md R151, R152, R157).
-/

namespace Sys2Proof.Machine

@[simp] theorem crcFeed_nil (c : Config) (a : Byte) : crcFeed c a [] = a := rfl

@[simp] theorem crcFeed_cons (c : Config) (a b : Byte) (bs : List Byte) :
    crcFeed c a (b :: bs) = crcFeed c (crc8Step c a b) bs := rfl

theorem crcFeed_append (c : Config) (a : Byte) (l l' : List Byte) :
    crcFeed c a (l ++ l') = crcFeed c (crcFeed c a l) l' := by
  induction l generalizing a with
  | nil => rfl
  | cons b l ih => simp [ih]

theorem crc8_append (c : Config) (l l' : List Byte) : crc8 c (l ++ l') = crcFeed c (crc8 c l) l' :=
  crcFeed_append _ _ _ _

/-- The step depends only on the XOR of accumulator and byte (R157). -/
theorem crc8Step_xor (c : Config) (a b : Byte) : crc8Step c a b = crc8Step c 0 (a ^^^ b) := by simp [crc8Step]

/-- The inverse of one shift: the low bit tells whether the polynomial was added. -/
def crcUnshift (a : Byte) : Byte := if a.getLsbD 0 then (a ^^^ 0x07) >>> 1 ||| 0x80 else a >>> 1

/-- One shift is one-to-one, because the polynomial's constant term is 1 (R157). -/
theorem crcShift_injective (c : Config) (a b : Byte) (h : crcShift c a = crcShift c b) : a = b := by
  have undo : ∀ x : Byte, crcUnshift (crcShift c x) = x := by simp only [crcShift, Fixed.val]; decide
  rw [← undo a, h, undo b]

/-- The step is one-to-one in the XOR of its arguments (R157). -/
theorem crc8Step_xor_injective {c : Config} {a b a' b' : Byte} (h : crc8Step c a b = crc8Step c a' b') :
    a ^^^ b = a' ^^^ b' := by
  simp only [crc8Step] at h
  have undo := crcShift_injective c
  exact undo _ _ <| undo _ _ <| undo _ _ <| undo _ _ <| undo _ _ <| undo _ _ <| undo _ _ <| undo _ _ h

end Sys2Proof.Machine
end

