-- ==== Sys2Proof/Laws/Decode.lean ====
section
/-!
SUPPORT. Byte order: the fields an encoding splits come back together (00_scope.md R11, 30_encoding.md R121).
-/

namespace Sys2Proof

theorem getLsbD_le16 (lo hi : Byte) (i : Nat) :
    (le16 lo hi).getLsbD i = if i < 8 then lo.getLsbD i else hi.getLsbD (i - 8) :=
  (BitVec.getLsbD_append (x := hi) (y := lo) (i := i)).trans (by by_cases h : i < 8 <;> simp [h])

theorem getLsbD_le24 (a b c : Byte) (i : Nat) :
    (le24 a b c).getLsbD i =
      if i < 8 then a.getLsbD i else if i < 16 then b.getLsbD (i - 8) else c.getLsbD (i - 16) := by
  refine (BitVec.getLsbD_append (x := c) (y := b ++ a) (i := i)).trans ?_
  rw [BitVec.getLsbD_append]
  by_cases h : i < 8
  · simp [h, show i < 16 by omega]
  · by_cases h' : i < 16 <;> simp [h, h']

@[simp] theorem le16_lo8_hi8 (v : Word16) : le16 (lo8 v) (hi8 v) = v := by
  apply BitVec.eq_of_getLsbD_eq
  intro i hi
  rw [getLsbD_le16]
  simp only [lo8, hi8, BitVec.getLsbD_extractLsb']
  by_cases h : i < 8
  · simp [h]
  · have h1 : i - 8 < 8 := by omega
    have h2 : 8 + (i - 8) = i := by omega
    simp [h, h1, h2]

@[simp] theorem lo8_le16 (lo hi : Byte) : lo8 (le16 lo hi) = lo := by
  apply BitVec.eq_of_getLsbD_eq
  intro i hi'
  simp [lo8, getLsbD_le16, hi']

@[simp] theorem hi8_le16 (lo hi : Byte) : hi8 (le16 lo hi) = hi := by
  apply BitVec.eq_of_getLsbD_eq
  intro i hi'
  simp [hi8, getLsbD_le16, hi']

@[simp] theorem le24_byte24 (v : BitVec 24) : le24 (byte24 v 0) (byte24 v 1) (byte24 v 2) = v := by
  apply BitVec.eq_of_getLsbD_eq
  intro i hi
  rw [getLsbD_le24]
  simp only [byte24, BitVec.getLsbD_extractLsb']
  by_cases h : i < 8
  · simp [h]
  · by_cases h' : i < 16
    · have h1 : i - 8 < 8 := by omega
      have h2 : 8 + (i - 8) = i := by omega
      simp [h, h', h1, h2]
    · have h1 : i - 16 < 8 := by omega
      have h2 : 16 + (i - 16) = i := by omega
      simp [h, h', h1, h2]

@[simp] theorem byte24_le24_low (a b c : Byte) : byte24 (le24 a b c) 0 = a := by
  apply BitVec.eq_of_getLsbD_eq
  intro i hi
  simp [byte24, getLsbD_le24, hi]

@[simp] theorem byte24_le24_mid (a b c : Byte) : byte24 (le24 a b c) 1 = b := by
  apply BitVec.eq_of_getLsbD_eq
  intro i hi
  have : 8 + i < 16 := by omega
  simp [byte24, getLsbD_le24, hi, this]

@[simp] theorem byte24_le24_high (a b c : Byte) : byte24 (le24 a b c) 2 = c := by
  apply BitVec.eq_of_getLsbD_eq
  intro i hi
  have : ¬ 16 + i < 8 := by omega
  simp [byte24, getLsbD_le24, hi, this]

@[simp] theorem block16_append (d : Vector Byte 16) (rest : List Byte) : block16 (d.toList ++ rest) = d := by
  ext i hi
  simp [block16, List.getD, List.getElem?_append]

theorem block16_toList (bs : List Byte) (h : 16 ≤ bs.length) : (block16 bs).toList = bs.take 16 := by
  apply List.ext_getElem
  · simp; omega
  · intro i h1 h2
    simp at h1
    have : i < bs.length := by omega
    simp [block16, List.getD, this]

theorem toNat_ofNat_length (l : List Byte) (h : l.length ≤ 255) : (BitVec.ofNat 8 l.length).toNat = l.length := by
  simp; omega

end Sys2Proof
end

