-- ==== Sys2Proof/Laws/Ops.lean ====
section
/-!
SUPPORT. What each shared operation over the ports can do, said once.
-/

namespace Sys2Proof.Machine

/-- Writing a sequence only appends its bytes, in order, to what was done at the ports (00_scope.md R12, 10_state.md
R33). -/
theorem txWrites_eq (bs : List Byte) (s : State) :
    txWrites bs s = { s with portLog := s.portLog ++ bs.map .tx } := by
  induction bs generalizing s with
  | nil => simp [txWrites]
  | cons b bs ih => simp [txWrites, ih, txWrite, State.logged]

theorem setTimeout_eq (sel : TimeoutSel) (s : State) :
    setTimeout sel s = { s with portLog := s.portLog ++ [.tmoSel sel], tmoSel := sel } := rfl

theorem rxTake_eq (e : RxEvent) (rest : List RxEvent) (s : State) :
    rxTake e rest s = { s with portLog := s.portLog ++ [.rx e], rx := rest } := rfl

/-- `Result` puts one record on `HOST_OUT` and frees the block; nothing else changes (R370, R374). -/
theorem result_eq (c : ResultCode) (d : ResultData) (s : State) :
    result c d s = { s with portLog := s.portLog ++ [.out (.result c d)], opState := .idle } := rfl

theorem raiseFail_eq (c : ResultCode) (d : ResultData) (s : State) : raiseFail c d s = result c d s := rfl

theorem stopSample_eq (s : State) :
    stopSample s =
      { s with
        portLog := s.portLog ++ [.stop (stopLevel s)]
        stop := stopLevel s
        stopNext := s.stopNext.tail } := rfl

/-- The request of an exchange: the session registers and the frame on `TX`; nothing else changes (R230, R171). -/
theorem sendRequest_eq (a c : Byte) (pl : List Byte) (s : State) :
    sendRequest a c pl s =
      { s with
        sesAddr := a
        sesCmd := c
        sesReq := pl
        portLog := s.portLog ++ (frameBytes s.cfg ⟨a, c, false, pl⟩).map .tx } := by
  simp [sendRequest, sendPacket, txWrites_eq]

theorem exchange_eq (a c : Byte) (pl : List Byte) (k : ReplyPos) (s : State) :
    exchange a c pl k s =
      { s with
        sesAddr := a
        sesCmd := c
        sesReq := pl
        opState := .busy (.reply k)
        portLog := s.portLog ++ (frameBytes s.cfg ⟨a, c, false, pl⟩).map .tx } := by
  simp [exchange, sendRequest_eq, waitAt]

/-- A bootloader request: its bytes on `TX`, then the wait; nothing else changes (R33). -/
theorem bootExchange_eq (req : List Byte) (want : Nat) (k : ReadPos) (s : State) :
    bootExchange req want k s =
      { s with
        opState := .busy (.readN want [] k)
        portLog := s.portLog ++ req.map .tx } := by
  simp [bootExchange, txWrites_eq, waitAt]

theorem writeBlockSend_eq (d : Vector Byte 16) (k : ReadPos) (s : State) :
    writeBlockSend d k s =
      { s with
        blData := d
        tmoSel := .write
        opState := .busy (.readN 2 [] k)
        portLog := s.portLog ++ [.tmoSel .write] ++ (progPageRequest s.cfg.stk d).map .tx } := by
  simp [writeBlockSend, bootExchange_eq, setTimeout_eq]

theorem writeAck_eq (s : State) :
    writeAck s = { s with portLog := s.portLog ++ [.tmoSel .normal], tmoSel := .normal, blCursorValid := false } := rfl

/-! The acknowledgements write the cursor and data registers, and no parameter and no position of a pass. -/

@[simp] theorem loadAck_cfg (w : Word16) (r : List Byte) (s : State) : (loadAck w r s).cfg = s.cfg := by
  simp only [loadAck]; split <;> rfl
@[simp] theorem loadAck_seqIdx (w : Word16) (r : List Byte) (s : State) : (loadAck w r s).seqIdx = s.seqIdx := by
  simp only [loadAck]; split <;> rfl
@[simp] theorem readAck_cfg (r : List Byte) (s : State) : (readAck r s).cfg = s.cfg := by
  simp only [readAck]; split <;> rfl
@[simp] theorem readAck_seqIdx (r : List Byte) (s : State) : (readAck r s).seqIdx = s.seqIdx := by
  simp only [readAck]; split <;> rfl

/-- A pass ends behind its last window, under every boundary that R402 admits (and every one with a window base at or
above it). -/
theorem passTest_end {k : PassPos} {fin : State → State} {b : Nat} {s : State} (h : s.cfg.bootBoundary.toNat ≤ b)
    (hb : b < 2 ^ 32) : passTest k fin b s = fin { s with seqIdx := BitVec.ofNat 32 b } := by
  rw [passTest, if_pos]
  rwa [BitVec.toNat_ofNat, Nat.mod_eq_of_lt hb]

/-- The length of a frame is 10 + L (30_encoding.md R100). -/
@[simp] theorem frameBytes_length (c : Config) (p : Packet) : (frameBytes c p).length = 10 + p.payload.length := by
  simp [frameBytes, frameStart, frameBody, Fixed.val]
  omega

theorem encodeFrame_eq {c : Config} {p : Packet} (h : p.payload.length ≤ 255) :
    encodeFrame c p = some (frameBytes c p) := by
  simp [encodeFrame, Fixed.val, h]

/-! ## Views of the port events -/

@[simp] theorem txOf_append (l l' : List PortEvent) : txOf (l ++ l') = txOf l ++ txOf l' := by
  induction l with
  | nil => rfl
  | cons e l ih => cases e <;> simp [txOf, ih]

@[simp] theorem rxOf_append (l l' : List PortEvent) : rxOf (l ++ l') = rxOf l ++ rxOf l' := by
  induction l with
  | nil => rfl
  | cons e l ih => cases e <;> simp [rxOf, ih]

@[simp] theorem outOf_append (l l' : List PortEvent) : outOf (l ++ l') = outOf l ++ outOf l' := by
  induction l with
  | nil => rfl
  | cons e l ih => cases e <;> simp [outOf, ih]

@[simp] theorem rxOf_tx (bs : List Byte) : rxOf (bs.map .tx) = [] := by
  induction bs with
  | nil => rfl
  | cons b bs ih => simpa [rxOf] using ih

@[simp] theorem outOf_tx (bs : List Byte) : outOf (bs.map .tx) = [] := by
  induction bs with
  | nil => rfl
  | cons b bs ih => simpa [outOf] using ih

@[simp] theorem txOf_tx (bs : List Byte) : txOf (bs.map .tx) = bs := by
  induction bs with
  | nil => rfl
  | cons b bs ih => simpa [txOf] using ih

@[simp] theorem rxOf_rx (l : List RxEvent) : rxOf (l.map .rx) = l := by
  induction l with
  | nil => rfl
  | cons b bs ih => simpa [rxOf] using ih

@[simp] theorem txOf_rx (l : List RxEvent) : txOf (l.map .rx) = [] := by
  induction l with
  | nil => rfl
  | cons b bs ih => simpa [txOf] using ih

@[simp] theorem outOf_rx (l : List RxEvent) : outOf (l.map .rx) = [] := by
  induction l with
  | nil => rfl
  | cons b bs ih => simpa [outOf] using ih

end Sys2Proof.Machine
end

