-- ==== Sys2Proof/Laws/Engine.lean ====
section
/-!
SUPPORT. What taking events does: `drain` one event at a time, what a continuation does not read (the events to come and
the position it left), and `RxReadN` as a whole (00_scope.md R12).
-/

namespace Sys2Proof.Machine

/-! ## drain -/

@[simp] theorem drain_nil (s : State) : drain [] s = s := rfl

theorem drain_cons {s : State} (h : s.opState.awaitsRx = true) (e : RxEvent) (rest : List RxEvent) :
    drain (e :: rest) s = drain rest (onEvent e (rxTake e rest s)) := by simp [drain, h]

theorem drain_of_not_awaits {s : State} (h : s.opState.awaitsRx = false) (l : List RxEvent) : drain l s = s := by
  cases l <;> simp [drain, h]

theorem pump_of_idle {s : State} (h : s.opState = .idle) : pump s = s :=
  drain_of_not_awaits (by simp [h, OpState.awaitsRx]) _

@[simp] theorem drain_result (l : List RxEvent) (c : ResultCode) (d : ResultData) (s : State) :
    drain l (result c d s) = result c d s := drain_of_not_awaits (by simp [OpState.awaitsRx]) l

@[simp] theorem drain_raiseFail (l : List RxEvent) (c : ResultCode) (d : ResultData) (s : State) :
    drain l (raiseFail c d s) = raiseFail c d s := drain_result l c d s

/-! ## A continuation reads neither the events to come nor the position it left -/

@[simp] theorem result_setRx (r : List RxEvent) (c : ResultCode) (d : ResultData) (s : State) :
    result c d (setRx r s) = setRx r (result c d s) := rfl
@[simp] theorem raiseFail_setRx (r : List RxEvent) (c : ResultCode) (d : ResultData) (s : State) :
    raiseFail c d (setRx r s) = setRx r (raiseFail c d s) := rfl
@[simp] theorem waitAt_setRx (r : List RxEvent) (p : Pos) (s : State) :
    waitAt p (setRx r s) = setRx r (waitAt p s) := rfl
@[simp] theorem exchange_setRx (r : List RxEvent) (a c : Byte) (pl : List Byte) (k : ReplyPos) (s : State) :
    exchange a c pl k (setRx r s) = setRx r (exchange a c pl k s) := by simp [exchange_eq, setRx]
@[simp] theorem bootExchange_setRx (r : List RxEvent) (req : List Byte) (n : Nat) (k : ReadPos) (s : State) :
    bootExchange req n k (setRx r s) = setRx r (bootExchange req n k s) := by simp [bootExchange_eq, setRx]
@[simp] theorem writeBlockSend_setRx (r : List RxEvent) (d : Vector Byte 16) (k : ReadPos) (s : State) :
    writeBlockSend d k (setRx r s) = setRx r (writeBlockSend d k s) := by simp [writeBlockSend_eq, setRx]
@[simp] theorem writeAck_setRx (r : List RxEvent) (s : State) : writeAck (setRx r s) = setRx r (writeAck s) := rfl
@[simp] theorem setTimeout_setRx (r : List RxEvent) (sel : TimeoutSel) (s : State) :
    setTimeout sel (setRx r s) = setRx r (setTimeout sel s) := rfl
@[simp] theorem stopSample_setRx (r : List RxEvent) (s : State) :
    stopSample (setRx r s) = setRx r (stopSample s) := rfl
@[simp] theorem hostOut_setRx (r : List RxEvent) (x : HostRecord) (s : State) :
    hostOut x (setRx r s) = setRx r (hostOut x s) := rfl
@[simp] theorem addMismatch_setRx (r : List RxEvent) (b : Word32) (s : State) :
    addMismatch b (setRx r s) = setRx r (addMismatch b s) := rfl
@[simp] theorem loadAck_setRx (r : List RxEvent) (w : Word16) (bs : List Byte) (s : State) :
    loadAck w bs (setRx r s) = setRx r (loadAck w bs s) := by
  by_cases h : ack2 s.cfg.stk bs = true <;> simp [loadAck, h, setRx]
@[simp] theorem readAck_setRx (r : List RxEvent) (bs : List Byte) (s : State) :
    readAck bs (setRx r s) = setRx r (readAck bs s) := by
  cases h : readPageData s.cfg.stk bs <;> simp [readAck, h, setRx]

theorem scanFrom_setRx (r : List RxEvent) (n : Byte) (a : Nat) (k : ReplyPos) {fin : State → State}
    (hf : ∀ s, fin (setRx r s) = setRx r (fin s)) (s : State) :
    scanFrom n a k fin (setRx r s) = setRx r (scanFrom n a k fin s) := by
  simp only [scanFrom]
  split
  · exact exchange_setRx r _ _ _ _ { s with seqIdx := BitVec.ofNat 32 a }
  · exact hf s

theorem monitorPollFrom_setRx (r : List RxEvent) (l : List Byte) (s : State) :
    monitorPollFrom l (setRx r s) = setRx r (monitorPollFrom l s) := by
  cases l with
  | cons a rest => simp [monitorPollFrom]
  | nil =>
    simp only [monitorPollFrom, show stopLevel (setRx r s) = stopLevel s from rfl]
    split <;> rfl

theorem passTest_setRx (r : List RxEvent) (k : PassPos) {fin : State → State} (hf : ∀ s, fin (setRx r s) = setRx r (fin s))
    (b : Nat) (s : State) : passTest k fin b (setRx r s) = setRx r (passTest k fin b s) := by
  by_cases h : s.cfg.bootBoundary.toNat ≤ (BitVec.ofNat 32 b).toNat
  · simp only [passTest, setRx_cfg, h, if_true]; exact hf { s with seqIdx := BitVec.ofNat 32 b }
  · simp only [passTest, setRx_cfg, h, if_false]; rfl

theorem programLoop_setRx (r : List RxEvent) (count fuel b : Nat) (s : State) :
    programLoop count fuel b (setRx r s) = setRx r (programLoop count fuel b s) := by
  induction fuel generalizing b with
  | zero => exact passTest_setRx r _ (fin := result .ok (.count count)) (fun _ => rfl) b s
  | succ fuel ih =>
    simp only [programLoop, show (setRx r s).image = s.image from rfl, show (setRx r s).cfg = s.cfg from rfl]
    split
    · exact ih _
    · split
      · exact bootExchange_setRx r _ _ _ { s with seqIdx := BitVec.ofNat 32 b }
      · rfl

theorem verifyEnd_setRx (r : List RxEvent) (s : State) : verifyEnd (setRx r s) = setRx r (verifyEnd s) := by
  simp only [verifyEnd, show (setRx r s).seqMismatch = s.seqMismatch from rfl]
  split <;> rfl

theorem verifyLoop_setRx (r : List RxEvent) (fuel b : Nat) (s : State) :
    verifyLoop fuel b (setRx r s) = setRx r (verifyLoop fuel b s) := by
  induction fuel generalizing b s with
  | zero => exact passTest_setRx r _ (verifyEnd_setRx r) b s
  | succ fuel ih =>
    simp only [verifyLoop, show (setRx r s).image = s.image from rfl, show (setRx r s).cfg = s.cfg from rfl]
    split
    · exact ih _ _
    · split
      · exact bootExchange_setRx r _ _ _ { s with seqIdx := BitVec.ofNat 32 b }
      · simp [ih]

theorem syncTry_setRx (r : List RxEvent) (s : State) : syncTry (setRx r s) = setRx r (syncTry s) := by
  simp only [syncTry, show (setRx r s).blRetry = s.blRetry from rfl, show (setRx r s).cfg = s.cfg from rfl]
  split
  · exact bootExchange_setRx r _ _ _ { s with blRetry := s.blRetry + 1 }
  · rfl

theorem getAllFrom_setRx (r : List RxEvent) (a : Byte) (i : Nat) (s : State) :
    getAllFrom a i (setRx r s) = setRx r (getAllFrom a i s) := by
  simp only [getAllFrom, show (setRx r s).cfg = s.cfg from rfl]
  split
  · exact exchange_setRx r _ _ _ _ { s with seqIdx := BitVec.ofNat 32 i }
  · rfl

theorem scanRecord_setRx (r : List RxEvent) (o : Option Packet) (s : State) :
    scanRecord o (setRx r s) = setRx r (scanRecord o s) := by
  simp only [scanRecord]
  split <;> rfl

/-- What an operation does after a wait does not depend on the events to come. -/
theorem replyDone_setRx (r : List RxEvent) (k : ReplyPos) (o : Option Packet) (s : State) :
    replyDone k o (setRx r s) = setRx r (replyDone k o s) := by
  cases k
  case ping a => cases o <;> rfl
  case getIdentity a =>
    cases o <;> simp only [replyDone, identityDone, result_setRx, show (setRx r s).cfg = s.cfg from rfl]
    split <;> rfl
  case setAddress a uid => cases o <;> simp only [replyDone, setAddressDone, result_setRx]; split <;> rfl
  case getAdcRaw a => cases o <;> simp only [replyDone, adcDone, result_setRx]; split <;> rfl
  case getStatus a =>
    simp only [replyDone, statusDone, result_setRx, show (setRx r s).cfg = s.cfg from rfl]
    split <;> rfl
  case shuntOn a => cases o <;> rfl
  case shuntOff a => cases o <;> rfl
  case setParameter a id v pl => cases o <;> simp only [replyDone, setParameterDone, result_setRx]; split <;> rfl
  case getParameter a id w => cases o <;> simp only [replyDone, getParameterDone, result_setRx]; split <;> rfl
  case discover n =>
    simp only [replyDone, discoverDone, scanRecord_setRx, setRx_seqIdx]
    exact scanFrom_setRx r n _ _ (fin := discoverEnd) (fun s => (by simp [discoverEnd])) _
  case getAll a d => exact getAllFrom_setRx r a _ { s with seqResults := s.seqResults ++ [_] }
  case monitorScan n =>
    simp only [replyDone, monitorScanDone, scanRecord_setRx, setRx_seqIdx]
    exact scanFrom_setRx r n _ _ (fin := monitorScanEnd)
      (fun s => (by simp [monitorScanEnd, monitorRound, monitorPollFrom_setRx])) _
  case monitorPoll a rest => exact monitorPollFrom_setRx r rest (hostOut _ s)

/-- What a bootloader operation does after a read does not depend on the events to come. -/
theorem readDone_setRx (r : List RxEvent) (k : ReadPos) (bs : List Byte) (s : State) :
    readDone k bs (setRx r s) = setRx r (readDone k bs s) := by
  cases k
  case sync => by_cases h : ack2 s.cfg.stk bs = true <;> simp [readDone, syncDone, h, syncTry_setRx]
  case versionMinor => cases h : versionByte s.cfg.stk bs <;> simp [readDone, versionMinorDone, h]
  case versionMajor minor => cases h : versionByte s.cfg.stk bs <;> simp [readDone, versionMajorDone, h]
  case loadAddress w => by_cases h : ack2 s.cfg.stk bs = true <;> simp [readDone, loadAddressDone, h]
  case writeBlock => by_cases h : ack2 s.cfg.stk bs = true <;> simp [readDone, writeBlockDone, h]
  case readBlock => cases h : readPageData s.cfg.stk bs <;> simp [readDone, readBlockDone, h]
  case programLoad win count =>
    by_cases h : ack2 s.cfg.stk bs = true <;> simp [readDone, programLoadDone, h]
  case programWrite count =>
    by_cases h : ack2 s.cfg.stk bs = true <;> simp [readDone, programWriteDone, h, programFrom, programLoop_setRx]
  case verifyLoad win =>
    by_cases h : ack2 s.cfg.stk bs = true <;> simp [readDone, verifyLoadDone, h, verifyFrom, verifyLoop_setRx]
  case verifyRead win =>
    by_cases h : readPageData s.cfg.stk bs = some win <;>
      simp [readDone, verifyReadDone, h, verifyFrom, verifyLoop_setRx]

theorem decStep_setRx (r : List RxEvent) (e : RxEvent) (s : State) :
    decStep e (setRx r s) = (setRx r (decStep e s).1, (decStep e s).2) := by
  obtain ⟨⟩ | _ := e
  · simp only [decStep, show (setRx r s).rxState = s.rxState from rfl]
    cases s.rxState
    · simp only [decSeekPreamble, setRx_cfg]; split <;> rfl
    · simp only [decSeekSync, setRx_cfg]; split; rfl; split <;> rfl
    · simp only [decReadHeader]
      simp only [show (setRx r s).rxHcnt = s.rxHcnt from rfl]
      by_cases h : s.rxHcnt + 1 = 4
      · simp [hdrWrite, rxCrcFeed, setRx, h]
      · simp [hdrWrite, rxCrcFeed, setRx, h]
    · simp only [decReadPayload]
      by_cases h : s.rxPcnt + 1 = s.rxHdr[3].toNat
      · simp [payWrite, rxCrcFeed, setRx, h]
      · simp [payWrite, rxCrcFeed, setRx, h]
    · rfl
  · rfl

/-- What one event does does not depend on the events to come. -/
theorem onEvent_setRx (r : List RxEvent) (e : RxEvent) (s : State) :
    onEvent e (setRx r s) = setRx r (onEvent e s) := by
  simp only [onEvent, show (setRx r s).opState = s.opState from rfl]
  split
  · rfl
  · rfl
  · rfl
  · simp only [decStep_setRx, frameRxOut]; split <;> rfl
  · simp only [decStep_setRx, waitReply]
    split
    · rfl
    · simp only [show ∀ p s, matchesReply p (setRx r s) = matchesReply p s from fun _ _ => rfl]
      split
      · exact replyDone_setRx r _ _ _
      · rfl
    · rfl
    · simp only [show ∀ s, (setRx r s).cfg = s.cfg from fun _ => rfl]
      split
      · exact replyDone_setRx r _ _ _
      · rfl
    · exact replyDone_setRx r _ _ _
    · exact replyDone_setRx r _ _ _
  · simp only [readEvent]
    split
    · exact readDone_setRx r _ _ _
    · split
      · exact readDone_setRx r _ _ _
      · rfl

/-- Draining two portions of events one after the other is draining them together. -/
theorem drain_append (l l' : List RxEvent) (s : State) :
    drain (l ++ l') (setRx (l ++ l') s) =
      drain ((drain l (setRx l s)).rx ++ l') (setRx ((drain l (setRx l s)).rx ++ l') (drain l (setRx l s))) := by
  induction l generalizing s with
  | nil => rfl
  | cons e rest ih =>
    by_cases h : s.opState.awaitsRx = true
    · have h1 : ∀ r, (setRx r s).opState.awaitsRx = true := fun _ => h
      have h2 : ∀ r r', rxTake e r (setRx r' s) = setRx r (s.logged (.rx e)) := fun _ _ => rfl
      rw [List.cons_append, drain_cons (h1 _), drain_cons (h1 _), h2, h2, onEvent_setRx, onEvent_setRx]
      exact ih _
    · have h1 : ∀ r, (setRx r s).opState.awaitsRx = false := fun _ => Bool.eq_false_iff.mpr h
      rw [drain_of_not_awaits (h1 _), drain_of_not_awaits (h1 _)]
      exact (drain_of_not_awaits (h1 _) _).symm

/-! ## What a continuation leaves of the position it came from: nothing -/

theorem scanFrom_setOp (o : OpState) (n : Byte) (a : Nat) (k : ReplyPos) {fin : State → State}
    (hf : ∀ s, fin (setOp o s) = fin s) (s : State) :
    scanFrom n a k fin (setOp o s) = scanFrom n a k fin s := by
  simp only [scanFrom]
  split
  · simp [exchange_eq, setOp]
  · exact hf s

theorem monitorPollFrom_setOp (o : OpState) (l : List Byte) (s : State) :
    monitorPollFrom l (setOp o s) = monitorPollFrom l s := by
  cases l with
  | cons a rest => simp [monitorPollFrom, exchange_eq, setOp]
  | nil =>
    simp only [monitorPollFrom, show stopLevel (setOp o s) = stopLevel s from rfl]
    split <;> rfl

theorem passTest_setOp (o : OpState) (k : PassPos) {fin : State → State} (hf : ∀ s, fin (setOp o s) = fin s) (b : Nat)
    (s : State) : passTest k fin b (setOp o s) = passTest k fin b s := by
  by_cases h : s.cfg.bootBoundary.toNat ≤ (BitVec.ofNat 32 b).toNat
  · simp only [passTest, setOp_cfg, h, if_true]; exact hf { s with seqIdx := BitVec.ofNat 32 b }
  · simp only [passTest, setOp_cfg, h, if_false]; rfl

theorem programLoop_setOp (o : OpState) (count fuel b : Nat) (s : State) :
    programLoop count fuel b (setOp o s) = programLoop count fuel b s := by
  induction fuel generalizing b with
  | zero => exact passTest_setOp o _ (fin := result .ok (.count count)) (fun _ => rfl) b s
  | succ fuel ih =>
    simp only [programLoop, show (setOp o s).image = s.image from rfl, show (setOp o s).cfg = s.cfg from rfl, ih]
    split
    · rfl
    · split
      · simp [bootExchange_eq, setOp]
      · rfl

theorem verifyEnd_setOp (o : OpState) (s : State) : verifyEnd (setOp o s) = verifyEnd s := by
  simp only [verifyEnd, show (setOp o s).seqMismatch = s.seqMismatch from rfl]
  split <;> rfl

theorem verifyLoop_setOp (o : OpState) (fuel b : Nat) (s : State) :
    verifyLoop fuel b (setOp o s) = verifyLoop fuel b s := by
  induction fuel generalizing b s with
  | zero => exact passTest_setOp o _ (verifyEnd_setOp o) b s
  | succ fuel ih =>
    simp only [verifyLoop, show (setOp o s).image = s.image from rfl, show (setOp o s).cfg = s.cfg from rfl, ih]
    split
    · rfl
    · split
      · simp [bootExchange_eq, setOp]
      · exact ih _ (addMismatch _ s)

/-- The position an operation comes from is gone when its wait ends. -/
theorem replyDone_setOp (o : OpState) (k : ReplyPos) (r : Option Packet) (s : State) :
    replyDone k r (setOp o s) = replyDone k r s := by
  cases k
  case ping a => cases r <;> rfl
  case getIdentity a =>
    cases r <;> simp only [replyDone, identityDone, show (setOp o s).cfg = s.cfg from rfl]
    · rfl
    · split <;> rfl
  case setAddress a uid =>
    cases r <;> simp only [replyDone, setAddressDone]
    · rfl
    · split <;> rfl
  case getAdcRaw a =>
    cases r <;> simp only [replyDone, adcDone]
    · rfl
    · split <;> rfl
  case getStatus a =>
    simp only [replyDone, statusDone, show (setOp o s).cfg = s.cfg from rfl]
    split <;> rfl
  case shuntOn a => cases r <;> rfl
  case shuntOff a => cases r <;> rfl
  case setParameter a id v pl =>
    cases r <;> simp only [replyDone, setParameterDone]
    · rfl
    · split <;> rfl
  case getParameter a id w =>
    cases r <;> simp only [replyDone, getParameterDone]
    · rfl
    · split <;> rfl
  case discover n =>
    simp only [replyDone, discoverDone, show (setOp o s).seqIdx = s.seqIdx from rfl,
      show scanRecord r (setOp o s) = setOp o (scanRecord r s) from by simp only [scanRecord]; split <;> rfl]
    exact scanFrom_setOp o n _ _ (fun _ => rfl) _
  case getAll a d =>
    simp only [replyDone, getAllDone, getAllFrom, show (setOp o s).cfg = s.cfg from rfl,
      show (setOp o s).seqIdx = s.seqIdx from rfl, show (setOp o s).seqResults = s.seqResults from rfl]
    split <;> simp [exchange_eq, setOp, result_eq]
  case monitorScan n =>
    simp only [replyDone, monitorScanDone, show (setOp o s).seqIdx = s.seqIdx from rfl,
      show scanRecord r (setOp o s) = setOp o (scanRecord r s) from by simp only [scanRecord]; split <;> rfl]
    exact scanFrom_setOp o n _ _ (fun s => monitorPollFrom_setOp o _ (setTimeout .normal s)) _
  case monitorPoll a rest => exact monitorPollFrom_setOp o rest (hostOut _ s)

/-- The position a bootloader operation comes from is gone when its read ends. -/
theorem readDone_setOp (o : OpState) (k : ReadPos) (bs : List Byte) (s : State) :
    readDone k bs (setOp o s) = readDone k bs s := by
  have hl : ∀ w, loadAck w bs (setOp o s) = setOp o (loadAck w bs s) := fun w => by
    by_cases h : ack2 s.cfg.stk bs = true <;> simp [loadAck, h, setOp]
  have hr : readAck bs (setOp o s) = setOp o (readAck bs s) := by
    cases h : readPageData s.cfg.stk bs <;> simp [readAck, h, setOp]
  have hw : writeAck (setOp o s) = setOp o (writeAck s) := rfl
  have hm : ∀ b t, addMismatch b (setOp o t) = setOp o (addMismatch b t) := fun _ _ => rfl
  have he : ∀ q n p t, bootExchange q n p (setOp o t) = bootExchange q n p t := fun q n p t => by
    simp [bootExchange_eq, setOp]
  have hs : ∀ c d t, result c d (setOp o t) = result c d t := fun _ _ _ => rfl
  have hf : ∀ c d t, raiseFail c d (setOp o t) = raiseFail c d t := fun _ _ _ => rfl
  cases k
  case sync =>
    by_cases h : ack2 s.cfg.stk bs = true <;> by_cases h' : s.blRetry < s.cfg.syncAttempts <;>
      simp [hs, readDone, syncDone, syncTry, h, h', bootExchange_eq]
  case versionMinor => cases h : versionByte s.cfg.stk bs <;> simp [he, hf, readDone, versionMinorDone, h]
  case versionMajor minor => cases h : versionByte s.cfg.stk bs <;> simp [hs, hf, readDone, versionMajorDone, h]
  case loadAddress w => by_cases h : ack2 s.cfg.stk bs = true <;> simp [hs, readDone, loadAddressDone, h, hl]
  case writeBlock => by_cases h : ack2 s.cfg.stk bs = true <;> simp [hs, readDone, writeBlockDone, h, hw]
  case readBlock => cases h : readPageData s.cfg.stk bs <;> simp [hs, readDone, readBlockDone, h, hr]
  case programLoad win count =>
    by_cases h : ack2 s.cfg.stk bs = true <;> simp [hf, readDone, programLoadDone, h, hl, writeBlockSend_eq]
  case programWrite count =>
    by_cases h : ack2 s.cfg.stk bs = true <;> simp [hf, readDone, programWriteDone, h, hw, programFrom, programLoop_setOp]
  case verifyLoad win =>
    by_cases h : ack2 s.cfg.stk bs = true <;>
      simp [he, readDone, verifyLoadDone, h, hl, hm, verifyFrom, verifyLoop_setOp]
  case verifyRead win =>
    by_cases h : readPageData s.cfg.stk bs = some win <;>
      simp [readDone, verifyReadDone, h, hr, hm, verifyFrom, verifyLoop_setOp]

/-! ## RxReadN as a whole -/

theorem drain_bytes (want : Nat) (k : ReadPos) (rest : List RxEvent) :
    ∀ (bs got : List Byte) (s : State), s.opState = .busy (.readN want got k) → got.length + bs.length < want →
      drain (bs.map .byte ++ rest) (setRx (bs.map .byte ++ rest) s) =
        drain rest { s with
          opState := .busy (.readN want (got ++ bs) k)
          rx := rest
          portLog := s.portLog ++ bs.map fun b => .rx (.byte b) }
  | [], got, s, h, _ => by simp [setRx, ← h]
  | b :: bs, got, s, h, hl => by
    simp only [List.length_cons] at hl
    have ha : (setRx (RxEvent.byte b :: (bs.map RxEvent.byte ++ rest)) s).opState.awaitsRx = true := by
      simp [setRx, h, OpState.awaitsRx, Pos.awaitsRx]
    have hn : ¬ want ≤ got.length + 1 := by omega
    rw [List.map_cons, List.cons_append, drain_cons ha]
    have he : onEvent (.byte b) (rxTake (.byte b) (bs.map .byte ++ rest)
        (setRx (.byte b :: (bs.map .byte ++ rest)) s)) =
        setRx (bs.map .byte ++ rest) { s with
          opState := .busy (.readN want (got ++ [b]) k)
          portLog := s.portLog ++ [.rx (.byte b)] } := by
      simp [onEvent, setRx, h, readEvent, hn, waitAt, rxTake_eq]
    rw [he, drain_bytes want k rest bs (got ++ [b]) _ rfl (by simp; omega)]
    simp [List.append_assoc]

/-- `RxReadN(want)` over the events that make it return `r`: exactly those events are taken, and the operation goes on
with `r` (R12). -/
theorem drain_read {want : Nat} {k : ReadPos} {rest : List RxEvent} {r : List Byte} {s : State}
    (hw : 0 < want) (h : s.opState = .busy (.readN want [] k)) (hr : r.length ≤ want)
    (hs : s.rx = readEvents want r ++ rest) :
    pump s =
      drain rest (readDone k r { s with rx := rest, portLog := s.portLog ++ (readEvents want r).map .rx }) := by
  have hs' : s = setRx (readEvents want r ++ rest) s := by simp [setRx, ← hs]
  rw [pump, hs, hs']
  by_cases hl : r.length < want
  · simp only [readEvents, hl, if_true, List.append_assoc, List.singleton_append]
    rw [drain_bytes want k _ r [] s h (by simpa using hl), drain_cons (by simp [OpState.awaitsRx, Pos.awaitsRx])]
    congr 1
    simp only [onEvent, rxTake_opState, readEvent, List.nil_append]
    rw [← readDone_setOp s.opState]
    simp [rxTake_eq, setOp, setRx, Function.comp_def]
  · obtain ⟨bs, b, rfl⟩ : ∃ bs b, r = bs ++ [b] := by
      rcases List.eq_nil_or_concat r with rfl | ⟨bs, b, hb⟩
      · simp at hl; omega
      · exact ⟨bs, b, by simpa using hb⟩
    simp only [readEvents, hl, if_false, List.append_nil]
    simp only [List.length_append, List.length_singleton] at hl hr
    have hn : want ≤ bs.length + 1 := by omega
    simp only [List.map_append, List.map_cons, List.map_nil, List.append_assoc, List.singleton_append]
    rw [drain_bytes want k _ bs [] s h (by simp; omega), drain_cons (by simp [OpState.awaitsRx, Pos.awaitsRx])]
    congr 1
    simp only [onEvent, rxTake_opState, readEvent, List.nil_append, hn, if_true]
    rw [← readDone_setOp s.opState]
    simp [rxTake_eq, setOp, setRx, Function.comp_def]

end Sys2Proof.Machine
end

