-- ==== Sys2Proof/Laws/Deframer.lean ====
section
/-!
SUPPORT. What the deframer does with a whole frame (42_frame_decoder.md R191 to R196): preamble, header, payload and CRC
byte, as one step of the operation that waits on it.
-/

namespace Sys2Proof.Machine

/-- The positions that wait in `DecodeAttempt()`. -/
def Pos.decodes : Pos → Bool
  | .frameRx => true
  | .reply _ => true
  | .readN _ _ _ => false
  | .monitorPause => false
  | .passAgain _ => false

/-- What the operation at a decoding position does with one output of the decoder. -/
def decoded (p : Pos) (out : DecOut) (s : State) : State :=
  match p with
  | .frameRx => frameRxOut out s
  | .reply k => waitReply k out s
  | .readN _ _ _ => s
  | .monitorPause => s
  | .passAgain _ => s

/-- FRAME_RX on a packet (R204). -/
@[simp] theorem decoded_frameRx_pkt (q : Packet) (s : State) :
    decoded .frameRx (.pkt q) s = ended .ok (.packet q) s := rfl

/-- FRAME_RX on "no packet" (R204). -/
@[simp] theorem decoded_frameRx_np (r : NpReason) (s : State) :
    decoded .frameRx (.np r) s = ended .noPacket (.reason r) s := rfl

@[simp] theorem drain_ended (l : List RxEvent) (c : ResultCode) (d : ResultData) (s : State) :
    drain l (ended c d s) = ended c d s := drain_result l c d s

@[simp] theorem decoded_none (p : Pos) (s : State) : decoded p .none s = s := by cases p <;> rfl

theorem onEvent_decodes {s : State} {p : Pos} (h : s.opState = .busy p) (hp : p.decodes = true) (e : RxEvent) :
    onEvent e s = decoded p (decStep e s).2 (decStep e s).1 := by
  cases p <;> simp_all [onEvent, decoded, Pos.decodes]

theorem awaitsRx_of_decodes {s : State} {p : Pos} (h : s.opState = .busy p) (hp : p.decodes = true) :
    s.opState.awaitsRx = true := by
  cases p <;> simp_all [OpState.awaitsRx, Pos.awaitsRx, Pos.decodes]

/-- One event at a decoding position: it is taken, and the decoder's output handed on. -/
theorem drain_decodes {s : State} {p : Pos} (h : s.opState = .busy p) (hp : p.decodes = true) (e : RxEvent)
    (rest : List RxEvent) :
    drain (e :: rest) s =
      drain rest (decoded p (decStep e (rxTake e rest s)).2 (decStep e (rxTake e rest s)).1) := by
  rw [drain_cons (awaitsRx_of_decodes h hp), onEvent_decodes (by simpa using h) hp]

/-- Bytes before any 0x55 are discarded (R192). -/
theorem drain_garbage {p : Pos} (hp : p.decodes = true) (rest : List RxEvent) :
    ∀ (g : List Byte) (s : State), s.opState = .busy p → s.rxState = .seekPreamble → (∀ b ∈ g, b ≠ 0x55) →
      drain (g.map .byte ++ rest) (setRx (g.map .byte ++ rest) s) =
        drain rest { s with rx := rest, portLog := s.portLog ++ g.map fun b => .rx (.byte b) }
  | [], s, _, _, _ => by simp [setRx]
  | b :: g, s, h, hs, hg => by
    have hb : b ≠ 0x55#8 := hg b (by simp)
    rw [List.map_cons, List.cons_append, drain_decodes (by simpa using h) hp]
    have he : decStep (.byte b) (rxTake (.byte b) (g.map .byte ++ rest)
        (setRx (RxEvent.byte b :: (g.map .byte ++ rest)) s)) =
        (setRx (g.map .byte ++ rest) { s with portLog := s.portLog ++ [.rx (.byte b)] }, .none) := by
      simp [decStep, hs, decSeekPreamble, Fixed.val, hb, rxTake_eq, setRx]
    rw [he, decoded_none, drain_garbage hp rest g _ (by simpa using h) (by simpa using hs)
      (fun x hx => hg x (by simp [hx]))]
    simp [List.append_assoc]

/-- A run of 0x55 ends in `SEEK_SYNC` (R192). -/
theorem drain_preamble {p : Pos} (hp : p.decodes = true) (rest : List RxEvent) :
    ∀ (n : Nat) (s : State), s.opState = .busy p → (s.rxState = .seekPreamble ∨ s.rxState = .seekSync) →
      drain ((List.replicate (n + 1) (0x55 : Byte)).map .byte ++ rest) s =
        drain rest { s with
          rxState := .seekSync
          rx := rest
          portLog := s.portLog ++ (List.replicate (n + 1) (0x55 : Byte)).map fun b => .rx (.byte b) } := by
  have step : ∀ (r : List RxEvent) (s : State), (s.rxState = .seekPreamble ∨ s.rxState = .seekSync) →
      decStep (.byte 0x55) (rxTake (.byte 0x55) r s) =
        ({ s with rxState := .seekSync, rx := r, portLog := s.portLog ++ [.rx (.byte 0x55)] }, .none) := by
    intro r s hs
    rcases hs with hs | hs
    · simp [decStep, hs, decSeekPreamble, Fixed.val, rxTake_eq]
    · simp [decStep, hs, decSeekSync, Fixed.val, rxTake_eq]
  intro n
  induction n with
  | zero =>
    intro s h hs
    simp only [List.replicate_one, List.map_cons, List.map_nil, List.singleton_append, Nat.zero_add]
    rw [drain_decodes h hp, step rest s hs, decoded_none]
  | succ n ih =>
    intro s h hs
    rw [List.replicate_succ, List.map_cons, List.cons_append, drain_decodes h hp, step _ s hs,
      decoded_none, ih]
    · simp [List.append_assoc, List.replicate_succ]
    · exact h
    · exact Or.inr rfl

/-- The sync byte starts a header (R192). -/
theorem drain_sync {p : Pos} (hp : p.decodes = true) (rest : List RxEvent) (s : State)
    (h : s.opState = .busy p) (hs : s.rxState = .seekSync) :
    drain (.byte 0xF0 :: rest) s =
      drain rest { s with
        rxState := .readHeader
        rxHcnt := 0
        rxPcnt := 0
        rxCrc := 0x00
        rx := rest
        portLog := s.portLog ++ [.rx (.byte 0xF0)] } := by
  have he : decStep (.byte 0xF0) (rxTake (.byte 0xF0) rest s) =
      ({ s with
        rxState := .readHeader
        rxHcnt := 0
        rxPcnt := 0
        rxCrc := 0x00
        rx := rest
        portLog := s.portLog ++ [.rx (.byte 0xF0)] }, .none) := by
    simp [decStep, hs, decSeekSync, Fixed.val, rxTake_eq]
  rw [drain_decodes h hp, he, decoded_none]

/-- A byte in SEEK_SYNC that is neither 0x55 nor 0xF0 ends the attempt, and is consumed (R192). -/
theorem drain_framing {p : Pos} (hp : p.decodes = true) (rest : List RxEvent) (b : Byte) (s : State)
    (h : s.opState = .busy p) (hs : s.rxState = .seekSync) (h5 : b ≠ 0x55) (hf : b ≠ 0xF0) :
    drain (.byte b :: rest) s =
      drain rest (decoded p (.np .framing) { s with
        rxState := .seekPreamble
        rx := rest
        portLog := s.portLog ++ [.rx (.byte b)] }) := by
  have he : decStep (.byte b) (rxTake (.byte b) rest s) =
      ({ s with rxState := .seekPreamble, rx := rest, portLog := s.portLog ++ [.rx (.byte b)] }, .np .framing) := by
    have h5' : b ≠ 85#8 := h5
    have hf' : b ≠ 240#8 := hf
    simp [decStep, hs, decSeekSync, Fixed.val, h5', hf', rxTake_eq]
  rw [drain_decodes h hp, he]

/-- A `TMO` in any state ends the attempt (R193). -/
theorem drain_timeout {p : Pos} (hp : p.decodes = true) (rest : List RxEvent) (s : State) (h : s.opState = .busy p) :
    drain (.tmo :: rest) s =
      drain rest (decoded p (.np (if s.rxState = .seekPreamble then .timeout else .short)) { s with
        rxState := .seekPreamble
        rx := rest
        portLog := s.portLog ++ [.rx .tmo] }) := by
  have he : decStep .tmo (rxTake .tmo rest s) =
      ({ s with rxState := .seekPreamble, rx := rest, portLog := s.portLog ++ [.rx .tmo] },
        .np (if s.rxState = .seekPreamble then .timeout else .short)) := by
    simp only [decStep, decTimeout, rxTake_rxState]
    cases s.rxState <;> simp [rxTake_eq]
  rw [drain_decodes h hp, he]

/-- A header byte before the last (R194). -/
theorem drain_hdrByte {p : Pos} (hp : p.decodes = true) (rest : List RxEvent) (b : Byte) (s : State)
    (h : s.opState = .busy p) (hs : s.rxState = .readHeader) (hi : s.rxHcnt + 1 ≠ 4) :
    drain (.byte b :: rest) s =
      drain rest { s with
        rxHdr := s.rxHdr.setIfInBounds s.rxHcnt b
        rxHcnt := s.rxHcnt + 1
        rxCrc := crc8Step s.cfg s.rxCrc b
        rx := rest
        portLog := s.portLog ++ [.rx (.byte b)] } := by
  have he : decStep (.byte b) (rxTake (.byte b) rest s) =
      ({ s with
        rxHdr := s.rxHdr.setIfInBounds s.rxHcnt b
        rxHcnt := s.rxHcnt + 1
        rxCrc := crc8Step s.cfg s.rxCrc b
        rx := rest
        portLog := s.portLog ++ [.rx (.byte b)] }, .none) := by
    simp [decStep, hs, decReadHeader, hdrWrite, rxCrcFeed, rxTake_eq, hi]
  rw [drain_decodes h hp, he, decoded_none]

/-- The last header byte, the length, selects what follows (R194). -/
theorem drain_hdrLast {p : Pos} (hp : p.decodes = true) (rest : List RxEvent) (b : Byte) (s : State)
    (h : s.opState = .busy p) (hs : s.rxState = .readHeader) (hi : s.rxHcnt = 3) :
    drain (.byte b :: rest) s =
      drain rest { s with
        rxState := if 0 < b.toNat then .readPayload else .readCrc
        rxHdr := s.rxHdr.setIfInBounds 3 b
        rxHcnt := 4
        rxCrc := crc8Step s.cfg s.rxCrc b
        rx := rest
        portLog := s.portLog ++ [.rx (.byte b)] } := by
  have he : decStep (.byte b) (rxTake (.byte b) rest s) =
      ({ s with
        rxState := if 0 < b.toNat then .readPayload else .readCrc
        rxHdr := s.rxHdr.setIfInBounds 3 b
        rxHcnt := 4
        rxCrc := crc8Step s.cfg s.rxCrc b
        rx := rest
        portLog := s.portLog ++ [.rx (.byte b)] }, .none) := by
    simp [decStep, hs, decReadHeader, hdrWrite, rxCrcFeed, rxTake_eq, hi]
  rw [drain_decodes h hp, he, decoded_none]

theorem hdr_filled (v : Vector Byte 4) (f a c l : Byte) :
    (((v.setIfInBounds 0 f).setIfInBounds 1 a).setIfInBounds 2 c).setIfInBounds 3 l = #v[f, a, c, l] := by
  ext i hi
  rcases i with _ | _ | _ | _ | i <;> simp at hi ⊢
  omega

/-- The sync byte and the four header bytes (R192, R194). -/
theorem drain_header {p : Pos} (hp : p.decodes = true) (rest : List RxEvent) (f a c l : Byte) (s : State)
    (h : s.opState = .busy p) (hs : s.rxState = .seekSync) :
    drain (([0xF0, f, a, c, l] : List Byte).map .byte ++ rest) s =
      drain rest { s with
        rxState := if 0 < l.toNat then .readPayload else .readCrc
        rxHdr := #v[f, a, c, l]
        rxHcnt := 4
        rxPcnt := 0
        rxCrc := crc8 s.cfg [f, a, c, l]
        rx := rest
        portLog := s.portLog ++ ([0xF0, f, a, c, l] : List Byte).map fun b => .rx (.byte b) } := by
  simp only [List.map_cons, List.map_nil, List.cons_append, List.nil_append]
  rw [drain_sync hp _ s h hs, drain_hdrByte hp _ f, drain_hdrByte hp _ a, drain_hdrByte hp _ c,
    drain_hdrLast hp _ l] <;> first | exact h | rfl | simp [hdr_filled, crc8]

/-- The payload bytes, from index `i` to the length byte (R194). -/
theorem drain_payload {p : Pos} (hp : p.decodes = true) (rest : List RxEvent) :
    ∀ (pl : List Byte) (i : Nat) (s : State), s.opState = .busy p → s.rxState = .readPayload → s.rxPcnt = i →
      pl ≠ [] → i + pl.length = s.rxHdr[3].toNat →
      drain (pl.map .byte ++ rest) s =
        drain rest { s with
          rxState := .readCrc
          rxPay := payFill s.rxPay i pl
          rxPcnt := i + pl.length
          rxCrc := crcFeed s.cfg s.rxCrc pl
          rx := rest
          portLog := s.portLog ++ pl.map fun b => .rx (.byte b) }
  | [], _, _, _, _, _, hne, _ => absurd rfl hne
  | [b], i, s, h, hs, hi, _, hl => by
    subst hi
    simp only [List.length_singleton] at hl
    rw [List.map_singleton, List.singleton_append, drain_decodes h hp]
    have he : decStep (.byte b) (rxTake (.byte b) rest s) =
        ({ s with
          rxState := .readCrc
          rxPay := s.rxPay.setIfInBounds s.rxPcnt b
          rxPcnt := s.rxPcnt + 1
          rxCrc := crc8Step s.cfg s.rxCrc b
          rx := rest
          portLog := s.portLog ++ [.rx (.byte b)] }, .none) := by
      simp [decStep, hs, decReadPayload, payWrite, rxCrcFeed, rxTake_eq, hl]
    rw [he, decoded_none]
    simp [payFill]
  | b :: b' :: pl, i, s, h, hs, hi, _, hl => by
    subst hi
    simp only [List.length_cons] at hl
    have hn : ¬ (s.rxPcnt + 1 = s.rxHdr[3].toNat) := by omega
    rw [List.map_cons, List.cons_append, drain_decodes h hp]
    have he : decStep (.byte b) (rxTake (.byte b) ((b' :: pl).map .byte ++ rest) s) =
        ({ s with
          rxPay := s.rxPay.setIfInBounds s.rxPcnt b
          rxPcnt := s.rxPcnt + 1
          rxCrc := crc8Step s.cfg s.rxCrc b
          rx := (b' :: pl).map .byte ++ rest
          portLog := s.portLog ++ [.rx (.byte b)] }, .none) := by
      simp [decStep, hs, decReadPayload, payWrite, rxCrcFeed, rxTake_eq, hn]
    rw [he, decoded_none, drain_payload hp rest (b' :: pl) (s.rxPcnt + 1)]
    · simp only [List.length_cons, payFill, crcFeed_cons, List.map_cons, List.append_assoc, List.singleton_append]
      rw [show s.rxPcnt + 1 + (pl.length + 1) = s.rxPcnt + (pl.length + 1 + 1) by omega]
    · exact h
    · exact hs
    · rfl
    · simp
    · simp only [List.length_cons]; omega

theorem payFill_before (bs : List Byte) : ∀ (v : Vector Byte 255) (i : Nat), i + bs.length ≤ 255 →
    (payFill v i bs).toList.take (i + bs.length) = v.toList.take i ++ bs := by
  induction bs with
  | nil => simp [payFill]
  | cons b bs ih =>
    intro v i h
    simp only [List.length_cons] at h
    have hi : i < v.toList.length := by simp; omega
    have := ih (v.setIfInBounds i b) (i + 1) (by omega)
    simp only [payFill, List.length_cons]
    rw [show i + (bs.length + 1) = i + 1 + bs.length by omega, this, Vector.toList_setIfInBounds,
      List.take_add_one, List.getElem?_set_self hi]
    simp [List.take_set_of_le]

/-- The bytes written are the bytes read back (R191, R196). -/
theorem payFill_read (v : Vector Byte 255) (bs : List Byte) (h : bs.length ≤ 255) :
    (payFill v 0 bs).toList.take bs.length = bs := by
  have := payFill_before bs v 0 (by omega)
  simpa using this

/-- The decoder's output for a frame with this header, payload and CRC byte (R195, R196). -/
def frameOut (cfg : Config) (f a c : Byte) (l : Byte) (pl : List Byte) (k : Byte) : DecOut :=
  if k = crc8 cfg ([f, a, c, l] ++ pl) then .pkt ⟨a, c, replyFlag cfg f, pl⟩ else .np .crc

/-- The bytes of a frame with a preamble of `n + 1` bytes. -/
def rawFrame (n : Nat) (f a c l : Byte) (pl : List Byte) (k : Byte) : List Byte :=
  List.replicate (n + 1) 0x55 ++ [0xF0, f, a, c, l] ++ pl ++ [k]

/-- The CRC byte ends the attempt (R195, R196). -/
theorem drain_crc {p : Pos} (hp : p.decodes = true) (rest : List RxEvent) (f a c l : Byte) (pl : List Byte) (k : Byte)
    (s : State) (h : s.opState = .busy p) (hs : s.rxState = .readCrc) (hh : s.rxHdr = #v[f, a, c, l])
    (hn : s.rxPcnt = pl.length) (hpl : s.rxPay.toList.take pl.length = pl) (hk : s.rxCrc = crc8 s.cfg ([f, a, c, l] ++ pl)) :
    drain (.byte k :: rest) s =
      drain rest (decoded p (frameOut s.cfg f a c l pl k)
        { s with rxState := .seekPreamble, rx := rest, portLog := s.portLog ++ [.rx (.byte k)] }) := by
  have he : decStep (.byte k) (rxTake (.byte k) rest s) =
      ({ s with rxState := .seekPreamble, rx := rest, portLog := s.portLog ++ [.rx (.byte k)] },
        frameOut s.cfg f a c l pl k) := by
    simp only [decStep, rxTake_rxState, hs, decReadCrc, frameOut, rxTake_rxCrc, hk]
    congr 1
    split
    · simp [rxPacket, hh, hn, payRead, hpl]
    · rfl
  rw [drain_decodes h hp, he]

/-- A whole frame at a decoding position: every byte is taken, the decoder ends in `SEEK_PREAMBLE`, and the operation
gets the packet if the CRC byte is right, else "no packet" (R191 to R196). -/
theorem drain_frame {p : Pos} (hp : p.decodes = true) (rest : List RxEvent) (n : Nat) (f a c l : Byte)
    (pl : List Byte) (k : Byte) (s : State) (h : s.opState = .busy p)
    (hs : s.rxState = .seekPreamble ∨ s.rxState = .seekSync) (hl : pl.length = l.toNat) :
    drain ((rawFrame n f a c l pl k).map .byte ++ rest) s =
      drain rest (decoded p (frameOut s.cfg f a c l pl k)
        (tookFrame #v[f, a, c, l] pl (rawFrame n f a c l pl k) rest s)) := by
  simp only [tookFrame]
  simp only [rawFrame, List.map_append, List.append_assoc]
  rw [drain_preamble hp _ n s h hs, drain_header hp _ f a c l _ (by exact h) (by rfl)]
  by_cases hpl : pl = []
  · subst hpl
    have h0 : l.toNat = 0 := by simpa using hl.symm
    simp only [List.map_nil, List.nil_append, h0, Nat.lt_irrefl, if_false, List.map_singleton, List.singleton_append]
    rw [drain_crc hp rest f a c l [] k _ (by exact h) (by rfl) (by rfl) (by rfl) (by simp) (by simp)]
    simp [payFill, List.append_assoc]
  · have hpos : 0 < l.toNat := by
      rw [← hl]; exact List.length_pos_iff.mpr hpl
    have hle : pl.length ≤ 255 := by have := l.isLt; omega
    simp only [hpos, if_true]
    rw [drain_payload hp _ pl 0 _ (by exact h) (by rfl) (by rfl) hpl (by simpa using hl), List.map_singleton,
      List.singleton_append, drain_crc hp rest f a c l pl k _ (by exact h) (by rfl) (by rfl) (by simp)
        (by exact payFill_read _ _ hle) (by rw [crc8_append])]
    simp [crc8, List.append_assoc]

/-- The frame of a packet is a frame with four preamble bytes whose CRC byte is right (R170). -/
theorem frameBytes_raw (cfg : Config) (p : Packet) :
    frameBytes cfg p = rawFrame 3 (flagsByte cfg p.isReply) p.address p.command (BitVec.ofNat 8 p.payload.length) p.payload
      (crc8 cfg (frameBody cfg p)) := by
  simp [frameBytes, frameStart, frameBody, rawFrame, Fixed.val]

@[simp] theorem replyFlag_flagsByte (c : Config) (b : Bool) : replyFlag c (flagsByte c b) = b := by
  cases b <;> simp [replyFlag, flagsByte, Fixed.val]

/-- The framer's frame gives the deframer its packet back (R174). -/
theorem drain_frameBytes {p : Pos} (hp : p.decodes = true) (rest : List RxEvent) (q : Packet) (s : State)
    (h : s.opState = .busy p) (hs : s.rxState = .seekPreamble ∨ s.rxState = .seekSync) (hq : q.payload.length ≤ 255) :
    drain ((frameBytes s.cfg q).map .byte ++ rest) s = drain rest (decoded p (.pkt q) (received q rest s)) := by
  rw [received, frameBytes_raw, drain_frame hp rest _ _ _ _ _ _ _ s h hs (by simp; omega)]
  simp [frameOut, frameBody]

theorem framed_raw (f a c : Byte) (pl : List Byte) (k : Byte) :
    framed f a c pl k = rawFrame 3 f a c (BitVec.ofNat 8 pl.length) pl k := by
  simp [framed, bodyBytes, rawFrame, List.replicate]

/-- An answer to the outstanding request, at the start of a decode attempt (R231). -/
theorem pump_answer {k : ReplyPos} {a c : Byte} {ans : Answer} {rest : List RxEvent} {s : State}
    (h : s.opState = .busy (.reply k)) (ha : s.sesAddr = a) (hc : s.sesCmd = c) (hx : s.rxState = .seekPreamble)
    (hf : AnswerFits s.cfg ans) (hr : s.rx = answerEvents s.cfg a c ans ++ rest) :
    pump s =
      drain rest (replyDone k (ans.payload.map fun pl => ⟨a, c, true, pl⟩) (answered a c ans rest s)) := by
  rw [pump, hr]
  cases ans with
  | reply pl =>
    rw [answerEvents, drain_frameBytes (by rfl) rest ⟨a, c, true, pl⟩ s h (Or.inl hx) hf]
    simp [decoded, waitReply, answered, received, tookFrame, matchesReply, ha, hc, Answer.payload]
  | timeout =>
    rw [answerEvents, List.singleton_append, drain_timeout (by rfl) rest s h]
    simp [decoded, waitReply, answered, timedOut, hx, Answer.payload]
  | discarded f x y pl crc =>
    obtain ⟨hw, hl, hk⟩ := hf
    rw [answerEvents, framed_raw, drain_frame (by rfl) rest 3 f x y _ pl crc s h (Or.inl hx) (by simp; omega)]
    have hk' : crc ≠ crc8 s.cfg ([f, x, y, BitVec.ofNat 8 pl.length] ++ pl) := hk
    simp only [frameOut, if_neg hk', decoded, waitReply, answered, framed_raw, Answer.payload, Option.map_none]
    exact congrArg _ (if_pos hw)

end Sys2Proof.Machine
end

