-- ==== Sys2Proof/Laws/Exchange.lean ====
section
/-!
SUPPORT. Whole exchanges: a request and its answer (43_command_protocol.md R230, R231), a bootloader request and the
bytes read behind it (45_bootloader.md R323), and what an acknowledgement and a block reply are.
-/

namespace Sys2Proof.Machine

/-! ## One step of a waiting operation -/

theorem exec_frameRx (s : State) : exec .frameRx s = .next (drain s.rx (waitAt .frameRx s)) := rfl

/-- A waiting operation goes on with the events there are. -/
theorem resume_awaits {p : Pos} {s : State} (h : s.opState = .busy p) (hp : p.awaitsRx = true) : resume s = pump s := by
  simp only [resume, h]
  cases p with
  | monitorPause => cases hp
  | passAgain k => cases hp
  | _ => rfl

theorem step_busy {p : Pos} {s : State} (h : s.opState = .busy p) : step s = .next (resume s) := by
  simp only [step, stepOnce, h]

theorem step_awaits {p : Pos} {s : State} (h : s.opState = .busy p) (hp : p.awaitsRx = true) :
    step s = .next (pump s) := by rw [step_busy h, resume_awaits h hp]

theorem pump_result (c : ResultCode) (d : ResultData) (s : State) : pump (result c d s) = result c d s :=
  drain_result _ _ _ _

/-! ## A request and its answer -/

/-- An exchange up to its wait, register by register (R230). -/
theorem exchange_wait (a c : Byte) (pl : List Byte) (k : ReplyPos) (s : State) :
    exchange a c pl k s = running (.reply k) (requested a c pl s) := by
  simp [exchange_eq, requested, running]

/-- An exchange and its answer: the operation goes on behind `WaitReply()` (R231). -/
theorem pump_request {k : ReplyPos} {a c : Byte} {pl : List Byte} {ans : Answer} {rest : List RxEvent} {s : State}
    (hf : AnswerFits s.cfg ans) (hx : s.rxState = .seekPreamble) (hr : s.rx = answerEvents s.cfg a c ans ++ rest) :
    pump (exchange a c pl k s) =
      drain rest (replyDone k (ans.payload.map fun q => ⟨a, c, true, q⟩) (answered a c ans rest (requested a c pl s))) := by
  rw [exchange_wait, pump_answer (s := running (.reply k) (requested a c pl s)) (k := k) (a := a) (c := c) (ans := ans)
    (rest := rest) rfl rfl rfl hx hf hr]
  congr 1
  have := replyDone_setOp (.busy (.reply k)) k (ans.payload.map fun q => ⟨a, c, true, q⟩)
    (answered a c ans rest (requested a c pl s))
  rw [← this]
  cases ans <;> simp [answered, received, tookFrame, timedOut, setOp, running]

@[simp] theorem requested_cfg (a c : Byte) (pl : List Byte) (s : State) : (requested a c pl s).cfg = s.cfg := rfl

section
variable (a c : Byte) (ans : Answer) (rest : List RxEvent) (s : State)

@[simp] theorem answered_cfg : (answered a c ans rest s).cfg = s.cfg := by cases ans <;> rfl
@[simp] theorem answered_rxState : (answered a c ans rest s).rxState = .seekPreamble := by cases ans <;> rfl
@[simp] theorem answered_rx : (answered a c ans rest s).rx = rest := by cases ans <;> rfl
@[simp] theorem answered_portLog :
    (answered a c ans rest s).portLog = s.portLog ++ (answerEvents s.cfg a c ans).map .rx := by
  cases ans <;> simp [answered, received, tookFrame, timedOut, answerEvents, Function.comp_def]
@[simp] theorem answered_crcAcc : (answered a c ans rest s).crcAcc = s.crcAcc := by cases ans <;> rfl
@[simp] theorem answered_sesAddr : (answered a c ans rest s).sesAddr = s.sesAddr := by cases ans <;> rfl
@[simp] theorem answered_sesCmd : (answered a c ans rest s).sesCmd = s.sesCmd := by cases ans <;> rfl
@[simp] theorem answered_sesReq : (answered a c ans rest s).sesReq = s.sesReq := by cases ans <;> rfl
@[simp] theorem answered_tmoSel : (answered a c ans rest s).tmoSel = s.tmoSel := by cases ans <;> rfl
@[simp] theorem answered_blCursor : (answered a c ans rest s).blCursor = s.blCursor := by cases ans <;> rfl
@[simp] theorem answered_blCursorValid : (answered a c ans rest s).blCursorValid = s.blCursorValid := by cases ans <;> rfl
@[simp] theorem answered_blData : (answered a c ans rest s).blData = s.blData := by cases ans <;> rfl
@[simp] theorem answered_blRetry : (answered a c ans rest s).blRetry = s.blRetry := by cases ans <;> rfl
@[simp] theorem answered_opState : (answered a c ans rest s).opState = s.opState := by cases ans <;> rfl
@[simp] theorem answered_seqIdx : (answered a c ans rest s).seqIdx = s.seqIdx := by cases ans <;> rfl
@[simp] theorem answered_seqPresent : (answered a c ans rest s).seqPresent = s.seqPresent := by cases ans <;> rfl
@[simp] theorem answered_seqResults : (answered a c ans rest s).seqResults = s.seqResults := by cases ans <;> rfl
@[simp] theorem answered_seqMismatch : (answered a c ans rest s).seqMismatch = s.seqMismatch := by cases ans <;> rfl
@[simp] theorem answered_hostIn : (answered a c ans rest s).hostIn = s.hostIn := by cases ans <;> rfl
@[simp] theorem answered_stop : (answered a c ans rest s).stop = s.stop := by cases ans <;> rfl
@[simp] theorem answered_stopNext : (answered a c ans rest s).stopNext = s.stopNext := by cases ans <;> rfl
@[simp] theorem answered_image : (answered a c ans rest s).image = s.image := by cases ans <;> rfl

/-- Taking an answer changes the decoder's registers, and no other register. -/
theorem answered_eq :
    answered a c ans rest s = { s with
      rxState := .seekPreamble
      rxHdr := (answered a c ans rest s).rxHdr
      rxHcnt := (answered a c ans rest s).rxHcnt
      rxPay := (answered a c ans rest s).rxPay
      rxPcnt := (answered a c ans rest s).rxPcnt
      rxCrc := (answered a c ans rest s).rxCrc
      rx := rest
      portLog := s.portLog ++ (answerEvents s.cfg a c ans).map .rx } := by
  rw [← answered_portLog a c ans rest s]
  cases ans <;> rfl

end

theorem sext16_eq (v : Word16) : sext16 v = v.toInt := by
  simp only [sext16, BitVec.toInt_eq_msb_cond, BitVec.msb_eq_getLsbD_last]
  rfl

/-- After a preamble, a byte that is neither 0x55 nor 0xF0 (R192). -/
theorem pump_framing {p : Pos} (hp : p.decodes = true) (n : Nat) (b : Byte) (rest : List RxEvent) (s : State)
    (ho : s.opState = .busy p) (hx : s.rxState = .seekPreamble) (h5 : b ≠ 0x55) (hf : b ≠ 0xF0)
    (hr : s.rx = (List.replicate (n + 1) 0x55 ++ [b]).map .byte ++ rest) :
    pump s = drain rest (decoded p (.np .framing) { s with
      rx := rest
      portLog := s.portLog ++ (List.replicate (n + 1) 0x55 ++ [b]).map fun x => .rx (.byte x) }) := by
  rw [pump, hr, List.map_append, List.append_assoc, drain_preamble hp _ n s ho (Or.inl hx), List.map_singleton,
    List.singleton_append, drain_framing hp rest b _ (by exact ho) (by rfl) h5 hf]
  congr 2
  simp [← hx]

/-! ## A bootloader exchange -/

/-- A bootloader exchange and its read: the operation goes on behind `RxReadN` (R12, R323). -/
theorem pump_boot {req : List Byte} {want : Nat} {k : ReadPos} {r : List Byte} {rest : List RxEvent} {s : State}
    (hw : 0 < want) (hl : r.length ≤ want) (hr : s.rx = readEvents want r ++ rest) :
    pump (bootExchange req want k s) =
      drain rest (readDone k r { s with rx := rest, portLog := s.portLog ++ bootLog req want r }) := by
  rw [drain_read (s := bootExchange req want k s) hw (by rw [bootExchange_eq]) hl (by rw [bootExchange_eq]; exact hr)]
  congr 1
  rw [← readDone_setOp (.busy (.readN want [] k)) k r { s with rx := rest, portLog := s.portLog ++ bootLog req want r }]
  simp [bootExchange_eq, setOp, bootLog]

theorem drain_boot {req : List Byte} {want : Nat} {k : ReadPos} {r : List Byte} {rest : List RxEvent} {s : State}
    (hw : 0 < want) (hl : r.length ≤ want) (hr : s.rx = readEvents want r ++ rest) :
    drain (readEvents want r ++ rest) (bootExchange req want k s) =
      drain rest (readDone k r { s with rx := rest, portLog := s.portLog ++ bootLog req want r }) := by
  rw [← pump_boot hw hl hr, pump, bootExchange_eq]; simp [hr]

/-- A block write and its read (R324). -/
theorem drain_write {d : Vector Byte 16} {k : ReadPos} {r : List Byte} {rest : List RxEvent} {s : State}
    (hl : r.length ≤ 2) (hr : s.rx = readEvents 2 r ++ rest) :
    drain (readEvents 2 r ++ rest) (writeBlockSend d k s) =
      drain rest (readDone k r { s with
        blData := d
        tmoSel := .write
        rx := rest
        portLog := s.portLog ++ [.tmoSel .write] ++ bootLog (progPageRequest s.cfg.stk d) 2 r }) := by
  rw [writeBlockSend, drain_boot (by omega) hl (by exact hr)]
  simp [setTimeout_eq]

/-- The acknowledgement test accepts `14 10` alone (R323). -/
theorem ack2_eq (c : StkCodes) (r : List Byte) : ack2 c r = decide (r = ackReply) := by
  simp [ack2, ackReply, Fixed.val]
  by_cases h : r = [20#8, 16#8] <;> simp [h]

theorem loadAck_eq (w : Word16) (r : List Byte) (s : State) :
    loadAck w r s =
      { s with blCursor := if r = ackReply then w else s.blCursor, blCursorValid := decide (r = ackReply) } := by
  simp only [loadAck, ack2_eq]
  by_cases h : r = ackReply <;> simp [h]

theorem versionByte_none {c : StkCodes} {r : List Byte} (h : ∀ v, r ≠ [0x14, v, 0x10]) : versionByte c r = none := by
  unfold versionByte
  split
  · rename_i x v y
    rw [if_neg]
    rintro ⟨rfl, rfl⟩
    exact h v rfl
  · rfl

/-- A block reply brings its block (R325). -/
theorem readPageData_blockReply (c : StkCodes) (d : Vector Byte 16) : readPageData c (blockReply d) = some d := by
  have hlen : (blockReply d).length = 18 := by simp [blockReply]
  have h17 : (blockReply d).getD 17 0 = 0x10 := by
    rw [blockReply, List.append_assoc, List.getD_append_right _ _ _ _ (by simp),
      List.getD_append_right _ _ _ _ (by simp)]
    simp
  simp only [readPageData, hlen, h17]
  rw [if_pos ⟨trivial, rfl, trivial⟩]
  simp [blockReply]

/-- Nothing else does (R325). -/
theorem readPageData_none {c : StkCodes} {r : List Byte} (h : ∀ d, r ≠ blockReply d) : readPageData c r = none := by
  by_contra hc
  unfold readPageData at hc
  split at hc
  · rename_i hh
    obtain ⟨h1, h2, h3⟩ := hh
    apply h (block16 (r.drop 1))
    simp only [Fixed.val] at h2 h3
    refine List.ext_getElem (by simp [blockReply, h1]) fun i hi _ => ?_
    rcases i with _ | i
    · simpa [blockReply, hi] using h2
    · by_cases h16 : i < 16
      · simp [blockReply, block16, h16, hi, List.getD_eq_getElem?_getD]
      · have : i = 16 := by omega
        subst this
        simpa [blockReply, hi] using h3
  · exact hc rfl

end Sys2Proof.Machine
end

