-- ==== Sys2Proof/Laws/Effects.lean ====
section
/-!
SUPPORT. What the parts of an operation write and report: each part either does quiet work (no result, only the
registers the operation may write) or brings the operation to its result or its next wait.
-/

namespace Sys2Proof.Machine

/-- Some work of the operation `op` that put no result on `HOST_OUT`. -/
def Quiet (op : Byte) (s t : State) : Prop :=
  ∃ evs, t.portLog = s.portLog ++ evs ∧ evs.any isResult = false ∧ s.rx = rxOf evs ++ t.rx ∧ WritesOnly op s t

/-- Quiet work, and then a result of the operation's own codes, or a wait of its own. -/
def Advances (op : Byte) (s t : State) : Prop :=
  ∃ u, Quiet op s u ∧ ((∃ c d, c ∈ codesOf op ∧ t = result c d u) ∨ ∃ p, p.opcode = op ∧ t = waitAt p u)

theorem same_refl (g : Register) (s : State) : g.same s s := by cases g <;> simp [Register.same]

theorem same_trans (g : Register) {s t u : State} (h : g.same s t) (h' : g.same t u) : g.same s u := by
  cases g <;> simp_all [Register.same]

theorem writesOnly_refl (op : Byte) (s : State) : WritesOnly op s s := ⟨rfl, rfl, rfl, fun g _ => same_refl g s⟩

theorem writesOnly_trans {op : Byte} {s t u : State} (h : WritesOnly op s t) (h' : WritesOnly op t u) :
    WritesOnly op s u :=
  ⟨h'.1.trans h.1, h'.2.1.trans h.2.1, h'.2.2.1.trans h.2.2.1,
    fun g hg => same_trans g (h.2.2.2 g hg) (h'.2.2.2 g hg)⟩

theorem quiet_refl (op : Byte) (s : State) : Quiet op s s := ⟨[], by simp, rfl, rfl, writesOnly_refl op s⟩

theorem quiet_trans {op : Byte} {s t u : State} (h : Quiet op s t) (h' : Quiet op t u) : Quiet op s u := by
  obtain ⟨e, h1, h2, h3, h4⟩ := h
  obtain ⟨e', g1, g2, g3, g4⟩ := h'
  exact ⟨e ++ e', by rw [g1, h1, List.append_assoc], by simp [h2, g2], by rw [h3, g3]; simp, writesOnly_trans h4 g4⟩

/-- Work at no port. -/
theorem quiet_reg {op : Byte} {s t : State} (h1 : t.portLog = s.portLog) (h2 : t.rx = s.rx)
    (h : WritesOnly op s t) : Quiet op s t := ⟨[], by simp [h1], rfl, by simp [rxOf, h2], h⟩

/-- Work at the output ports alone. -/
theorem quiet_log {op : Byte} {s : State} (evs : List PortEvent) (h1 : evs.any isResult = false)
    (h2 : rxOf evs = []) : Quiet op s { s with portLog := s.portLog ++ evs } :=
  ⟨evs, rfl, h1, by simp [h2], rfl, rfl, rfl, fun g _ => by cases g <;> simp [Register.same]⟩

theorem quiet_tx (op : Byte) (s : State) (bs : List Byte) : Quiet op s (txWrites bs s) := by
  rw [txWrites_eq]
  exact quiet_log _ (by induction bs <;> simp_all [isResult]) (rxOf_tx bs)

theorem quiet_waitAt (op : Byte) (p : Pos) (s : State) : Quiet op s (waitAt p s) :=
  quiet_reg rfl rfl ⟨rfl, rfl, rfl, fun g _ => by cases g <;> simp [Register.same, waitAt]⟩

theorem quiet_request {op a c : Byte} {pl : List Byte} {s : State} (h : mayWrite op .session = true) :
    Quiet op s (sendRequest a c pl s) := by
  refine quiet_trans (quiet_reg rfl rfl (t := { s with sesAddr := a, sesCmd := c, sesReq := pl })
    ⟨rfl, rfl, rfl, fun g hg => ?_⟩) (quiet_tx _ _ _)
  cases g <;> simp_all [Register.same]

theorem quiet_timeout {op : Byte} {sel : TimeoutSel} {s : State} (h : mayWrite op .timeout = true) :
    Quiet op s (setTimeout sel s) := by
  refine quiet_trans (quiet_reg rfl rfl (t := { s with tmoSel := sel }) ⟨rfl, rfl, rfl, fun g hg => ?_⟩)
    (quiet_log (s := { s with tmoSel := sel }) [.tmoSel sel] rfl rfl)
  cases g <;> simp_all [Register.same]

theorem quiet_index {op : Byte} {i : Word32} {s : State} (h : mayWrite op .index = true) :
    Quiet op s { s with seqIdx := i } :=
  quiet_reg rfl rfl ⟨rfl, rfl, rfl, fun g hg => by cases g <;> simp_all [Register.same]⟩

theorem quiet_retry {op : Byte} {n : Nat} {s : State} (h : mayWrite op .retry = true) :
    Quiet op s { s with blRetry := n } :=
  quiet_reg rfl rfl ⟨rfl, rfl, rfl, fun g hg => by cases g <;> simp_all [Register.same]⟩

theorem quiet_valid {op : Byte} {v : Bool} {s : State} (h : mayWrite op .cursorValid = true) :
    Quiet op s { s with blCursorValid := v } :=
  quiet_reg rfl rfl ⟨rfl, rfl, rfl, fun g hg => by cases g <;> simp_all [Register.same]⟩

theorem quiet_data {op : Byte} {v : Vector Byte 16} {s : State} (h : mayWrite op .data = true) :
    Quiet op s { s with blData := v } :=
  quiet_reg rfl rfl ⟨rfl, rfl, rfl, fun g hg => by cases g <;> simp_all [Register.same]⟩

theorem quiet_mismatch {op : Byte} {b : Word32} {s : State} (h : mayWrite op .mismatch = true) :
    Quiet op s (addMismatch b s) :=
  quiet_reg rfl rfl ⟨rfl, rfl, rfl, fun g hg => by cases g <;> simp_all [Register.same, addMismatch]⟩

theorem quiet_results {op : Byte} {l : List ParamRecord} {s : State} (h : mayWrite op .results = true) :
    Quiet op s { s with seqResults := l } :=
  quiet_reg rfl rfl ⟨rfl, rfl, rfl, fun g hg => by cases g <;> simp_all [Register.same]⟩

theorem quiet_record {op : Byte} {r : Option Packet} {s : State} (h : mayWrite op .present = true) :
    Quiet op s (scanRecord r s) := by
  simp only [scanRecord]
  split
  · exact quiet_reg rfl rfl ⟨rfl, rfl, rfl, fun g hg => by cases g <;> simp_all [Register.same]⟩
  · exact quiet_refl _ _

theorem quiet_stop {op : Byte} {s : State} (h : mayWrite op .stopPort = true) : Quiet op s (stopSample s) := by
  refine quiet_trans (quiet_log [.stop (stopLevel s)] rfl rfl)
    (quiet_reg rfl rfl ⟨rfl, rfl, rfl, fun g hg => ?_⟩)
  cases g <;> simp_all [Register.same, stopSample, State.logged]

theorem quiet_hostMonitor (op a : Byte) (o : StatusOutcome) (s : State) : Quiet op s (hostOut (.monitor a o) s) :=
  quiet_log [.out (.monitor a o)] rfl rfl

theorem quiet_loadAck {op : Byte} {w : Word16} {r : List Byte} {s : State} (h1 : mayWrite op .cursor = true)
    (h2 : mayWrite op .cursorValid = true) : Quiet op s (loadAck w r s) := by
  rw [loadAck_eq]
  exact quiet_reg rfl rfl ⟨rfl, rfl, rfl, fun g hg => by cases g <;> simp_all [Register.same]⟩

theorem quiet_writeAck {op : Byte} {s : State} (h1 : mayWrite op .timeout = true)
    (h2 : mayWrite op .cursorValid = true) : Quiet op s (writeAck s) :=
  quiet_trans (quiet_timeout h1) (quiet_valid h2)

theorem quiet_readAck {op : Byte} {r : List Byte} {s : State} (h1 : mayWrite op .data = true)
    (h2 : mayWrite op .cursorValid = true) : Quiet op s (readAck r s) := by
  simp only [readAck]
  split
  · exact quiet_trans (quiet_valid (v := false) h2) (quiet_data (s := { s with blCursorValid := false }) h1)
  · exact quiet_valid h2

/-- The decoder writes its own registers. -/
theorem decStep_frame (e : RxEvent) (s : State) :
    (decStep e s).1 = { s with
      rxState := (decStep e s).1.rxState
      rxHdr := (decStep e s).1.rxHdr
      rxHcnt := (decStep e s).1.rxHcnt
      rxPay := (decStep e s).1.rxPay
      rxPcnt := (decStep e s).1.rxPcnt
      rxCrc := (decStep e s).1.rxCrc } := by
  cases e with
  | tmo => rfl
  | byte b =>
    simp only [decStep]
    cases s.rxState
    · simp only [decSeekPreamble]; split <;> rfl
    · simp only [decSeekSync]; split; rfl; split <;> rfl
    · simp only [decReadHeader]; split <;> rfl
    · simp only [decReadPayload]; split <;> rfl
    · rfl

theorem quiet_decStep {op : Byte} {e : RxEvent} {s : State} (h : mayWrite op .decoder = true) :
    Quiet op s (decStep e s).1 := by
  rw [decStep_frame]
  exact quiet_reg rfl rfl ⟨rfl, rfl, rfl, fun g hg => by cases g <;> simp_all [Register.same]⟩

/-- Reading an event (R32). -/
theorem quiet_take {op : Byte} {e : RxEvent} {rest : List RxEvent} {s : State} (h : mayWrite op .rxPort = true)
    (hr : s.rx = e :: rest) : Quiet op s (rxTake e rest s) := by
  refine ⟨[.rx e], rfl, rfl, by simpa [rxTake, rxOf] using hr, rfl, rfl, rfl, fun g hg => ?_⟩
  cases g <;> simp_all [Register.same, rxTake_eq]

/-! ## Up to a result or a wait -/

theorem advances_after {op : Byte} {s t u : State} (h : Quiet op s t) (h' : Advances op t u) : Advances op s u := by
  obtain ⟨v, h1, h2⟩ := h'
  exact ⟨v, quiet_trans h h1, h2⟩

theorem advances_result {op : Byte} {s : State} {c : ResultCode} {d : ResultData} (h : c ∈ codesOf op) :
    Advances op s (result c d s) := ⟨s, quiet_refl _ _, Or.inl ⟨c, d, h, rfl⟩⟩

theorem advances_wait {op : Byte} {s : State} {p : Pos} (h : p.opcode = op) : Advances op s (waitAt p s) :=
  ⟨s, quiet_refl _ _, Or.inr ⟨p, h, rfl⟩⟩

theorem advances_self {s : State} {p : Pos} (h : s.opState = .busy p) : Advances p.opcode s s :=
  ⟨s, quiet_refl _ _, Or.inr ⟨p, rfl, by simp [waitAt, ← h]⟩⟩

theorem advances_exchange {op a c : Byte} {pl : List Byte} {k : ReplyPos} {s : State}
    (h : mayWrite op .session = true) (hk : k.opcode = op) : Advances op s (exchange a c pl k s) :=
  advances_after (quiet_request h) (advances_wait hk)

theorem advances_boot {op : Byte} {req : List Byte} {n : Nat} {k : ReadPos} {s : State} (hk : k.opcode = op) :
    Advances op s (bootExchange req n k s) := advances_after (quiet_tx _ _ _) (advances_wait hk)

theorem advances_writeBlock {op : Byte} {d : Vector Byte 16} {k : ReadPos} {s : State}
    (h1 : mayWrite op .timeout = true) (h2 : mayWrite op .data = true) (hk : k.opcode = op) :
    Advances op s (writeBlockSend d k s) :=
  advances_after (quiet_data h2) (advances_after (quiet_timeout h1) (advances_boot hk))

theorem advances_scan {op n : Byte} {a : Nat} {k : ReplyPos} {fin : State → State} {s : State}
    (hi : mayWrite op .index = true) (hs : mayWrite op .session = true) (hk : k.opcode = op)
    (hf : ∀ s, Advances op s (fin s)) : Advances op s (scanFrom n a k fin s) := by
  simp only [scanFrom]
  split
  · exact advances_after (quiet_index hi) (advances_exchange hs hk)
  · exact hf s

theorem advances_discoverEnd (s : State) : Advances 0x20 s (discoverEnd s) :=
  advances_after (quiet_timeout (by decide)) (advances_result (by decide))

theorem advances_poll (l : List Byte) (s : State) : Advances 0x22 s (monitorPollFrom l s) := by
  cases l with
  | cons a rest => exact advances_exchange (by decide) rfl
  | nil =>
    simp only [monitorPollFrom]
    split
    · exact advances_after (quiet_stop (by decide)) (advances_result (by decide))
    · exact advances_after (quiet_stop (by decide)) (advances_wait rfl)

theorem advances_scanEnd (s : State) : Advances 0x22 s (monitorScanEnd s) :=
  advances_after (quiet_timeout (by decide)) (advances_poll _ _)

theorem advances_getAll (a : Byte) (i : Nat) (s : State) : Advances 0x21 s (getAllFrom a i s) := by
  simp only [getAllFrom]
  split
  · exact advances_after (quiet_index (by decide)) (advances_exchange (by decide) rfl)
  · exact advances_result (by decide)

theorem advances_sync (s : State) : Advances 0x30 s (syncTry s) := by
  simp only [syncTry]
  split
  · exact advances_after (quiet_retry (by decide)) (advances_boot rfl)
  · exact advances_result (by decide)

/-- The end of a pass (R327, R328; log entry 11). -/
theorem advances_passTest {op : Byte} {k : PassPos} {fin : State → State} (hk : k.opcode = op)
    (hi : mayWrite op .index = true) (hf : ∀ s, Advances op s (fin s)) (b : Nat) (s : State) :
    Advances op s (passTest k fin b s) := by
  simp only [passTest]
  split
  · exact advances_after (quiet_index hi) (hf _)
  · exact advances_after (quiet_index hi) (advances_wait hk)

theorem advances_program (count fuel b : Nat) (s : State) : Advances 0x35 s (programLoop count fuel b s) := by
  induction fuel generalizing b with
  | zero => exact advances_passTest (op := 0x35) (k := .program count) rfl (by decide) (fun _ => advances_result (by decide)) b s
  | succ n ih =>
    simp only [programLoop]
    split
    · exact ih _
    · split
      · exact advances_after (quiet_index (by decide)) (advances_boot rfl)
      · exact advances_after (quiet_index (by decide)) (advances_result (c := .blBadAck) (by decide))

theorem advances_verifyEnd (s : State) : Advances 0x36 s (verifyEnd s) := by
  simp only [verifyEnd]; split <;> exact advances_result (by decide)

theorem advances_verify (fuel b : Nat) (s : State) : Advances 0x36 s (verifyLoop fuel b s) := by
  induction fuel generalizing b s with
  | zero => exact advances_passTest (op := 0x36) (k := .verify) rfl (by decide) advances_verifyEnd b s
  | succ n ih =>
    simp only [verifyLoop]
    split
    · exact ih _ _
    · split
      · exact advances_after (quiet_index (by decide)) (advances_boot rfl)
      · exact advances_after (quiet_mismatch (by decide)) (ih _ _)

/-- Behind `WaitReply()` the operation that waited goes on (R230, R231). -/
theorem advances_replyDone (k : ReplyPos) (r : Option Packet) (s : State) : Advances k.opcode s (replyDone k r s) := by
  cases k
  case ping a => change Advances 0x11 s _; cases r <;> exact advances_result (by decide)
  case getIdentity a =>
    change Advances 0x13 s _
    cases r
    · exact advances_result (by decide)
    · simp only [replyDone, identityDone]; split <;> exact advances_result (by decide)
  case setAddress a uid =>
    change Advances 0x14 s _
    cases r
    · exact advances_result (by decide)
    · simp only [replyDone, setAddressDone]; split <;> exact advances_result (by decide)
  case getAdcRaw a =>
    change Advances 0x15 s _
    cases r
    · exact advances_result (by decide)
    · simp only [replyDone, adcDone]; split <;> exact advances_result (by decide)
  case getStatus a =>
    change Advances 0x16 s _
    simp only [replyDone, statusDone]; split <;> exact advances_result (by decide)
  case shuntOn a => change Advances 0x17 s _; cases r <;> exact advances_result (by decide)
  case shuntOff a => change Advances 0x18 s _; cases r <;> exact advances_result (by decide)
  case setParameter a id v pl =>
    change Advances 0x19 s _
    cases r
    · exact advances_result (by decide)
    · simp only [replyDone, setParameterDone]; split <;> exact advances_result (by decide)
  case getParameter a id w =>
    change Advances 0x1A s _
    cases r
    · exact advances_result (by decide)
    · simp only [replyDone, getParameterDone]; split <;> exact advances_result (by decide)
  case discover n =>
    change Advances 0x20 s _
    exact advances_after (quiet_record (by decide)) (advances_scan (by decide) (by decide) rfl advances_discoverEnd)
  case getAll a d =>
    change Advances 0x21 s _
    exact advances_after (quiet_results (by decide)) (advances_getAll a _ _)
  case monitorScan n =>
    change Advances 0x22 s _
    exact advances_after (quiet_record (by decide)) (advances_scan (by decide) (by decide) rfl advances_scanEnd)
  case monitorPoll a rest =>
    change Advances 0x22 s _
    exact advances_after (quiet_hostMonitor _ _ _ _) (advances_poll _ _)

/-- Behind `RxReadN` the operation that read goes on (R323). -/
theorem advances_readDone (k : ReadPos) (r : List Byte) (s : State) : Advances k.opcode s (readDone k r s) := by
  cases k
  case sync =>
    change Advances 0x30 s _
    simp only [readDone, syncDone]; split
    · exact advances_result (by decide)
    · exact advances_sync s
  case versionMinor =>
    change Advances 0x31 s _
    simp only [readDone, versionMinorDone]; split
    · exact advances_boot rfl
    · exact advances_result (c := .blBadAck) (by decide)
  case versionMajor =>
    change Advances 0x31 s _
    simp only [readDone, versionMajorDone]; split
    · exact advances_result (by decide)
    · exact advances_result (c := .blBadAck) (by decide)
  case loadAddress w =>
    change Advances 0x32 s _
    simp only [readDone, loadAddressDone]
    split <;> exact advances_after (quiet_loadAck (by decide) (by decide)) (advances_result (by decide))
  case writeBlock =>
    change Advances 0x33 s _
    simp only [readDone, writeBlockDone]
    split <;> exact advances_after (quiet_writeAck (by decide) (by decide)) (advances_result (by decide))
  case readBlock =>
    change Advances 0x34 s _
    simp only [readDone, readBlockDone]
    split <;> exact advances_after (quiet_readAck (by decide) (by decide)) (advances_result (by decide))
  case programLoad win count =>
    change Advances 0x35 s _
    refine advances_after (t := loadAck (wordAddress s.seqIdx.toNat) r s) (quiet_loadAck (by decide) (by decide)) ?_
    simp only [readDone, programLoadDone]
    split
    · exact advances_writeBlock (by decide) (by decide) rfl
    · exact advances_result (c := .blBadAck) (by decide)
  case programWrite count =>
    change Advances 0x35 s _
    refine advances_after (t := writeAck s) (quiet_writeAck (by decide) (by decide)) ?_
    simp only [readDone, programWriteDone]
    split
    · exact advances_program _ _ _ _
    · exact advances_result (c := .blBadAck) (by decide)
  case verifyLoad win =>
    change Advances 0x36 s _
    refine advances_after (t := loadAck (wordAddress s.seqIdx.toNat) r s) (quiet_loadAck (by decide) (by decide)) ?_
    simp only [readDone, verifyLoadDone]
    split
    · exact advances_boot rfl
    · exact advances_after (quiet_mismatch (by decide)) (advances_verify _ _ _)
  case verifyRead win =>
    change Advances 0x36 s _
    refine advances_after (t := readAck r s) (quiet_readAck (by decide) (by decide)) ?_
    simp only [readDone, verifyReadDone]
    split
    · exact advances_verify _ _ _
    · exact advances_after (quiet_mismatch (by decide)) (advances_verify _ _ _)

/-- One event, taken by the operation that waits for it. -/
theorem advances_event {s : State} {p : Pos} {e : RxEvent} (h : s.opState = .busy p) :
    Advances p.opcode s (onEvent e s) := by
  have keep : ∀ q, s.opState = .busy q → (decStep e s).1.opState = .busy q := fun q hq => by rw [decStep_frame, ← hq]
  simp only [onEvent, h]
  cases p with
  | monitorPause => exact advances_self h
  | passAgain k => exact advances_self h
  | frameRx =>
    refine advances_after (t := (decStep e s).1) (quiet_decStep (by decide)) ?_
    have hs := keep _ h
    change Advances 0x04 _ _
    simp only [frameRxOut]
    split
    · exact advances_self hs
    · exact advances_result (by decide)
    · exact advances_result (by decide)
  | reply k =>
    have hs := keep _ h
    have hw : mayWrite k.opcode .decoder = true := by cases k <;> (simp only [ReplyPos.opcode]; decide)
    refine advances_after (t := (decStep e s).1) (quiet_decStep hw) ?_
    simp only [waitReply]
    split
    · exact advances_self hs
    · split
      · exact advances_replyDone _ _ _
      · exact advances_self hs
    · exact advances_self hs
    · split
      · exact advances_replyDone _ _ _
      · exact advances_self hs
    · exact advances_replyDone _ _ _
    · exact advances_replyDone _ _ _
  | readN want got k =>
    simp only [readEvent]
    split
    · exact advances_readDone _ _ _
    · split
      · exact advances_readDone _ _ _
      · exact advances_wait rfl

end Sys2Proof.Machine
end

