-- ==== Sys2Proof/Laws/Invariant.lean ====
section
/-!
SUPPORT. The parts of a step keep the invariant of Safety.lean: one lemma per operation over the registers, one per
continuation, and one event.
-/

namespace Sys2Proof.Machine

/-- `BlockInv` without what it says of the operation that runs. -/
structure RegistersOk (s : State) : Prop where
  decoder : DecoderOk s
  presentAscending : s.seqPresent.Pairwise fun x y => x.toNat < y.toNat
  presentNotZero : ∀ x ∈ s.seqPresent, x ≠ 0
  retryBound : s.blRetry ≤ s.cfg.syncAttempts
  requestBound : s.sesReq.length ≤ 255
  imageCanonical : s.image.wf = true

/-- Between two waits: the registers are as the invariant says, no decode attempt is under way, and the timeout select
stands at `tm`. -/
structure Ready (tm : TimeoutSel) (s : State) : Prop where
  cor : RegistersOk s
  seek : s.rxState = .seekPreamble
  tmo : s.tmoSel = tm

theorem blockInv_of {s} (h : RegistersOk s) (ho : OperationOk s) : BlockInv s := ⟨h.1, ho, h.2, h.3, h.4, h.5, h.6⟩

theorem registersOk_of {s} (h : BlockInv s) : RegistersOk s := ⟨h.1, h.3, h.4, h.5, h.6, h.7⟩

/-- `DecoderOk` reads the decoder's registers and the parameters alone. -/
theorem decoderOk_congr {s t : State} (h : DecoderOk s) (h0 : t.cfg = s.cfg) (h1 : t.rxState = s.rxState) (h2 : t.rxHdr = s.rxHdr) (h3 : t.rxHcnt = s.rxHcnt)
    (h4 : t.rxPay = s.rxPay) (h5 : t.rxPcnt = s.rxPcnt) (h6 : t.rxCrc = s.rxCrc) : DecoderOk t := by
  unfold DecoderOk at *
  simp only [payRead] at *
  rw [h0, h1, h2, h3, h4, h5, h6]; exact h

theorem ready_txWrites {tm s} (bs) (h : Ready tm s) : Ready tm (txWrites bs s) := by
  rw [txWrites_eq]; exact ⟨⟨decoderOk_congr h.1.1 rfl rfl rfl rfl rfl rfl rfl, h.1.2, h.1.3, h.1.4, h.1.5, h.1.6⟩, h.2, h.3⟩

theorem ready_timeout {tm s} (sel) (h : Ready tm s) : Ready sel (setTimeout sel s) :=
  ⟨⟨decoderOk_congr h.1.1 rfl rfl rfl rfl rfl rfl rfl, h.1.2, h.1.3, h.1.4, h.1.5, h.1.6⟩, h.2, rfl⟩

theorem ready_index {tm s i} (h : Ready tm s) : Ready tm { s with seqIdx := i } :=
  ⟨⟨decoderOk_congr h.1.1 rfl rfl rfl rfl rfl rfl rfl, h.1.2, h.1.3, h.1.4, h.1.5, h.1.6⟩, h.2, h.3⟩

/-- What `Ready` does not read may change. -/
theorem ready_same {tm s t} (h : Ready tm s) (h1 : t.rxState = s.rxState) (h2 : t.rxHdr = s.rxHdr) (h3 : t.rxHcnt = s.rxHcnt)
    (h4 : t.rxPay = s.rxPay) (h5 : t.rxPcnt = s.rxPcnt) (h6 : t.rxCrc = s.rxCrc) (h7 : t.seqPresent = s.seqPresent) (h8 : t.blRetry = s.blRetry)
    (h9 : t.cfg = s.cfg) (h10 : t.sesReq = s.sesReq) (h11 : t.image = s.image) (h12 : t.tmoSel = s.tmoSel) : Ready tm t :=
  ⟨⟨decoderOk_congr h.1.1 h9 h1 h2 h3 h4 h5 h6, h7 ▸ h.1.2, h7 ▸ h.1.3, h8 ▸ h9 ▸ h.1.4, h10 ▸ h.1.5, h11 ▸ h.1.6⟩, h1 ▸ h.2, h12 ▸ h.3⟩

theorem blockInv_result {s c d} (h : Ready .normal s) : BlockInv (result c d s) :=
  blockInv_of (⟨decoderOk_congr h.1.1 rfl rfl rfl rfl rfl rfl rfl, h.1.2, h.1.3, h.1.4, h.1.5, h.1.6⟩) ⟨h.2, h.3⟩

theorem blockInv_fail {s c d} (h : Ready .normal s) : BlockInv (raiseFail c d s) := blockInv_result h

theorem registersOk_exchange {tm s a c pl k} (h : Ready tm s) (hl : pl.length ≤ 255) :
    RegistersOk (exchange a c pl k s) := by
  rw [exchange_eq]
  exact ⟨decoderOk_congr h.1.1 rfl rfl rfl rfl rfl rfl rfl, h.1.2, h.1.3, h.1.4, hl, h.1.6⟩

theorem blockInv_boot {s req n k} (h : Ready (Pos.readN n [] k).timeout s) (hn : n = k.wanted) (h0 : 0 < n) :
    BlockInv (bootExchange req n k s) := by
  rw [bootExchange_eq]
  exact blockInv_of ⟨decoderOk_congr h.1.1 rfl rfl rfl rfl rfl rfl rfl, h.1.2, h.1.3, h.1.4, h.1.5, h.1.6⟩ ⟨h.3, h.2, hn, h0⟩

theorem toNat_ofNat32 {n : Byte} {a : Nat} (h : a ≤ n.toNat) : (BitVec.ofNat 32 a).toNat = a := by
  have := n.isLt
  simp only [BitVec.toNat_ofNat]; omega

/-- A scan from address `a` on reaches a wait that keeps the invariant, or its end (R290). -/
theorem blockInv_scan {s n a k fin} (h : Ready .discover s) (ha : 1 ≤ a) (hx : ∀ x ∈ s.seqPresent, x.toNat < a)
    (hk : k = .discover n ∨ k = .monitorScan n) (hf : ∀ s, Ready .discover s → BlockInv (fin s)) : BlockInv (scanFrom n a k fin s) := by
  simp only [scanFrom]
  split
  · rename_i hn
    have e := toNat_ofNat32 hn
    refine blockInv_of (registersOk_exchange (ready_index h) (by simp)) ?_
    have g : ScanOk n (exchange (BitVec.ofNat 8 a) 0x01 [] k { s with seqIdx := BitVec.ofNat 32 a }) := by
      rw [exchange_eq]
      refine ⟨by simpa [e] using ha, by simpa [e] using hn, ?_, by simpa [e] using hx⟩
      apply BitVec.eq_of_toNat_eq
      simp
    have t := h.3
    rcases hk with rfl | rfl <;> rw [exchange_eq] at * <;> exact ⟨t, rfl, g⟩
  · exact hf _ h

/-- An address is recorded behind those before it (R290, R41). -/
theorem ready_record {s n r} (h : Ready .discover s) (hs : ScanOk n s) :
    Ready .discover (scanRecord r s) ∧ (scanRecord r s).seqIdx = s.seqIdx ∧ ∀ x ∈ (scanRecord r s).seqPresent, x.toNat < s.seqIdx.toNat + 1 := by
  obtain ⟨h1, h2, h3, h4⟩ := hs
  simp only [scanRecord]
  split
  · have := n.isLt
    have e : (s.seqIdx.setWidth 8).toNat = s.seqIdx.toNat := by simp only [BitVec.toNat_setWidth]; omega
    refine ⟨⟨⟨decoderOk_congr h.1.1 rfl rfl rfl rfl rfl rfl rfl, ?_, ?_, h.1.4, h.1.5, h.1.6⟩, h.2, h.3⟩, rfl, ?_⟩
    · refine List.pairwise_append.2 ⟨h.1.2, List.pairwise_singleton _ _, ?_⟩
      intro x hx y hy
      rw [List.mem_singleton.1 hy, e]; exact h4 x hx
    · intro x hx
      rcases List.mem_append.1 hx with hx | hx
      · exact h.1.3 x hx
      · rw [List.mem_singleton.1 hx]; intro h0; rw [h0] at e; simp at e; omega
    · intro x hx
      rcases List.mem_append.1 hx with hx | hx
      · have := h4 x hx; omega
      · rw [List.mem_singleton.1 hx, e]; omega
  · exact ⟨h, rfl, fun x hx => by have := h4 x hx; omega⟩

theorem blockInv_discoverEnd (s) (h : Ready .discover s) :
    BlockInv (discoverEnd s) := blockInv_result (ready_timeout _ h)

theorem blockInv_poll {l s} (h : Ready .normal s) : BlockInv (monitorPollFrom l s) := by
  cases l with
  | cons a rest =>
    simp only [monitorPollFrom]
    refine blockInv_of (registersOk_exchange h (by simp)) ?_
    rw [exchange_eq]; exact ⟨h.3, rfl, rfl⟩
  | nil =>
    have h' : Ready .normal (stopSample s) := ready_same h rfl rfl rfl rfl rfl rfl rfl rfl rfl rfl rfl rfl
    simp only [monitorPollFrom]
    split
    · exact blockInv_result h'
    · exact blockInv_of ⟨decoderOk_congr h'.1.1 rfl rfl rfl rfl rfl rfl rfl, h'.1.2, h'.1.3, h'.1.4, h'.1.5, h'.1.6⟩ ⟨h'.3, h'.2⟩

theorem blockInv_scanEnd (s) (h : Ready .discover s) :
    BlockInv (monitorScanEnd s) := blockInv_poll (ready_timeout _ h)

theorem blockInv_getAll {a i s} (h : Ready .normal s) : BlockInv (getAllFrom a i s) := by
  simp only [getAllFrom]
  split
  · refine blockInv_of (registersOk_exchange (ready_index h) (by simp)) ?_
    rw [exchange_eq]; exact ⟨h.3, rfl, rfl, rfl⟩
  · exact blockInv_result h

/-- Behind `WaitReply()` (R231). -/
theorem blockInv_replyDone {k r s} (hc : RegistersOk s) (hk : s.opState = .busy (.reply k)) (ho : OperationOk s) (hs : s.rxState = .seekPreamble) :
    BlockInv (replyDone k r s) := by
  simp only [OperationOk, hk] at ho
  obtain ⟨ht, -, hm⟩ := ho
  have hT : ∀ tm, (Pos.reply k).timeout = tm → Ready tm s := fun tm e => ⟨hc, hs, e ▸ ht⟩
  cases k
  case discover n =>
    obtain ⟨g1, g2, g3⟩ := ready_record (r := r) (hT _ rfl) hm
    exact blockInv_scan g1 (by omega) g3 (Or.inl rfl) blockInv_discoverEnd
  case monitorScan n =>
    obtain ⟨g1, g2, g3⟩ := ready_record (r := r) (hT _ rfl) hm
    exact blockInv_scan g1 (by omega) g3 (Or.inr rfl) blockInv_scanEnd
  case getAll a d => exact blockInv_getAll (ready_same (hT _ rfl) rfl rfl rfl rfl rfl rfl rfl rfl rfl rfl rfl rfl)
  case monitorPoll a rest => exact blockInv_poll (ready_same (hT _ rfl) rfl rfl rfl rfl rfl rfl rfl rfl rfl rfl rfl rfl)
  all_goals
    have h := hT .normal rfl
    first
    | (cases r <;> exact blockInv_result h)
    | (cases r <;> (simp only [replyDone, identityDone, setAddressDone, adcDone, statusDone, setParameterDone, getParameterDone]; first | exact blockInv_result h | (split <;> exact blockInv_result h)))

theorem ready_loadAck {w r s tm} (h : Ready tm s) : Ready tm (loadAck w r s) := by
  rw [loadAck_eq]; exact ready_same h rfl rfl rfl rfl rfl rfl rfl rfl rfl rfl rfl rfl

theorem ready_readAck {r s tm} (h : Ready tm s) : Ready tm (readAck r s) := by
  simp only [readAck]; split <;> exact ready_same h rfl rfl rfl rfl rfl rfl rfl rfl rfl rfl rfl rfl

theorem ready_writeAck {s tm} (h : Ready tm s) :
    Ready .normal (writeAck s) := ready_same (ready_timeout .normal h) rfl rfl rfl rfl rfl rfl rfl rfl rfl rfl rfl rfl

theorem ready_mismatch {s tm b} (h : Ready tm s) :
    Ready tm (addMismatch b s) := ready_same h rfl rfl rfl rfl rfl rfl rfl rfl rfl rfl rfl rfl

theorem blockInv_writeBlock {d k s tm} (h : Ready tm s) (hk : (Pos.readN 2 [] k).timeout = .write)
    (hw : k.wanted = 2) :
    BlockInv (writeBlockSend d k s) :=
  blockInv_boot (hk ▸ ready_timeout .write (s := { s with blData := d }) (tm := tm) (ready_same h rfl rfl rfl rfl rfl rfl rfl rfl rfl rfl rfl rfl)) hw.symm (by omega)

theorem blockInv_sync {s} (h : Ready .normal s) : BlockInv (syncTry s) := by
  simp only [syncTry]
  split
  · rename_i hlt
    refine blockInv_boot (k := .sync) ?_ rfl (by omega)
    exact ⟨⟨decoderOk_congr h.1.1 rfl rfl rfl rfl rfl rfl rfl, h.1.2, h.1.3, hlt, h.1.5, h.1.6⟩, h.2, h.3⟩
  · exact blockInv_result h

/-- The end of a pass (R327, R328; log entry 11). -/
theorem blockInv_passTest {k fin b s} (h : Ready .normal s) (hf : ∀ s, Ready .normal s → BlockInv (fin s)) :
    BlockInv (passTest k fin b s) := by
  simp only [passTest]
  split
  · exact hf _ (ready_index h)
  · exact blockInv_of ⟨decoderOk_congr h.1.1 rfl rfl rfl rfl rfl rfl rfl, h.1.2, h.1.3, h.1.4, h.1.5, h.1.6⟩ ⟨h.3, h.2⟩

theorem blockInv_verifyEnd (s) (h : Ready .normal s) : BlockInv (verifyEnd s) := by
  simp only [verifyEnd]; split <;> exact blockInv_result h

theorem blockInv_program {count fuel b s} (h : Ready .normal s) : BlockInv (programLoop count fuel b s) := by
  induction fuel generalizing b with
  | zero => exact blockInv_passTest h fun _ => blockInv_result
  | succ n ih =>
    simp only [programLoop]
    split
    · exact ih
    · split
      · exact blockInv_boot (ready_index h) rfl (by omega)
      · exact blockInv_fail (ready_index h)

theorem blockInv_verify {fuel b s} (h : Ready .normal s) : BlockInv (verifyLoop fuel b s) := by
  induction fuel generalizing b s with
  | zero => exact blockInv_passTest h blockInv_verifyEnd
  | succ n ih =>
    simp only [verifyLoop]
    split
    · exact ih h
    · split
      · exact blockInv_boot (ready_index h) rfl (by omega)
      · exact ih (ready_mismatch h)

/-- Behind `RxReadN` (R12). -/
theorem blockInv_readDone {k r s} (h : Ready (Pos.readN k.wanted [] k).timeout s) : BlockInv (readDone k r s) := by
  cases k
  case sync => simp only [readDone, syncDone]; split; exact blockInv_result h; exact blockInv_sync h
  case versionMinor => simp only [readDone, versionMinorDone]; split; exact blockInv_boot h rfl (by omega); exact blockInv_fail h
  case versionMajor => simp only [readDone, versionMajorDone]; split; exact blockInv_result h; exact blockInv_fail h
  case loadAddress w => simp only [readDone, loadAddressDone]; split <;> exact blockInv_result (ready_loadAck h)
  case writeBlock => simp only [readDone, writeBlockDone]; split <;> exact blockInv_result (ready_writeAck h)
  case readBlock => simp only [readDone, readBlockDone]; split <;> exact blockInv_result (ready_readAck h)
  case programLoad w c =>
    simp only [readDone, programLoadDone]; split
    · exact blockInv_writeBlock (ready_loadAck h) rfl rfl
    · exact blockInv_fail (ready_loadAck h)
  case programWrite c =>
    simp only [readDone, programWriteDone]; split
    · exact blockInv_program (ready_writeAck h)
    · exact blockInv_fail (ready_writeAck h)
  case verifyLoad w =>
    simp only [readDone, verifyLoadDone]; split
    · exact blockInv_boot (ready_loadAck h) rfl (by omega)
    · exact blockInv_verify (ready_mismatch (ready_loadAck h))
  case verifyRead w =>
    simp only [readDone, verifyReadDone]; split
    · exact blockInv_verify (ready_readAck h)
    · exact blockInv_verify (ready_mismatch (ready_readAck h))

/-- An attempt that ended left the decoder in `SEEK_PREAMBLE` (R191). -/
theorem decStep_seek (e s) (h : (decStep e s).2 ≠ .none) : (decStep e s).1.rxState = .seekPreamble := by
  cases e with
  | tmo => rfl
  | byte b =>
    simp only [decStep] at *
    cases hs : s.rxState <;> simp only [hs] at *
    · simp only [decSeekPreamble] at *; split <;> simp_all
    · simp only [decSeekSync] at *; split; simp_all; split <;> simp_all
    · simp only [decReadHeader] at *; split <;> simp_all
    · simp only [decReadPayload] at *; split <;> simp_all
    · rfl

theorem take_set_succ {n : Nat} (v : Vector Byte n) (i : Nat) (b : Byte) (h : i < n) :
    (v.setIfInBounds i b).toList.take (i + 1) = v.toList.take i ++ [b] := by
  have hi : i < v.toList.length := by simpa using h
  rw [Vector.toList_setIfInBounds, List.take_add_one, List.getElem?_set_self hi]
  simp [List.take_set_of_le]

/-- One event keeps the decoder's registers in step with the bytes taken (R192 to R196). -/
theorem decoderOk_decStep {e s} (h : DecoderOk s) : DecoderOk (decStep e s).1 := by
  cases e with
  | tmo => exact ⟨h.1, h.2.1, trivial⟩
  | byte b =>
    obtain ⟨h1, h2, h3⟩ := h
    simp only [decStep]
    cases hs : s.rxState <;> simp only [hs] at h3
    · simp only [decSeekPreamble]
      split
      · exact ⟨h1, h2, trivial⟩
      · exact ⟨h1, h2, by rw [hs]; trivial⟩
    · simp only [decSeekSync]
      split
      · exact ⟨h1, h2, by rw [hs]; trivial⟩
      · split
        · exact ⟨by simp, by simp, by simp [crc8]⟩
        · exact ⟨h1, h2, trivial⟩
    · obtain ⟨g1, g2, g3⟩ := h3
      have e : crc8 s.cfg ((s.rxHdr.setIfInBounds s.rxHcnt b).toList.take (s.rxHcnt + 1)) = crc8Step s.cfg s.rxCrc b := by
        rw [take_set_succ _ _ _ g1, crc8_append, g3]; rfl
      simp only [decReadHeader]
      split
      · rename_i h4
        have h4 : s.rxHcnt + 1 = 4 := h4
        have e' : crc8 s.cfg (s.rxHdr.setIfInBounds s.rxHcnt b).toList = crc8Step s.cfg s.rxCrc b := by
          rw [← e, List.take_of_length_le]; simp [h4]
        refine ⟨by simp [rxCrcFeed, h4], by simpa [rxCrcFeed, hdrWrite] using h2, ?_⟩
        by_cases hl : 0 < ((rxCrcFeed b { hdrWrite s.rxHcnt b s with rxHcnt := (hdrWrite s.rxHcnt b s).rxHcnt + 1 }).rxHdr[3]).toNat
        · simp only [hl, if_true]
          refine ⟨h4, ?_, ?_⟩
          · show s.rxPcnt < _
            rw [g2]; exact hl
          · simpa [rxCrcFeed, hdrWrite, payRead, g2] using e'.symm
        · simp only [hl, if_false]
          refine ⟨h4, ?_, ?_⟩
          · show s.rxPcnt = _
            rw [g2]; simp only [rxCrcFeed, hdrWrite] at hl ⊢; omega
          · simpa [rxCrcFeed, hdrWrite, payRead, g2] using e'.symm
      · rename_i h4
        have h4 : s.rxHcnt + 1 ≠ 4 := h4
        refine ⟨by simp only [rxCrcFeed, hdrWrite]; omega, h2, ?_⟩
        simp only [rxCrcFeed, hdrWrite, hs]
        exact ⟨by omega, g2, e.symm⟩
    · obtain ⟨g1, g2, g3⟩ := h3
      have hb := (s.rxHdr[3]).isLt
      have e : crc8 s.cfg (s.rxHdr.toList ++ (s.rxPay.setIfInBounds s.rxPcnt b).toList.take (s.rxPcnt + 1)) =
          crc8Step s.cfg s.rxCrc b := by
        rw [take_set_succ _ _ _ (by omega), ← List.append_assoc, crc8_append]
        simp only [payRead] at g3
        rw [← g3]; rfl
      simp only [decReadPayload]
      split
      · rename_i h4
        have h4 : s.rxPcnt + 1 = s.rxHdr[3].toNat := h4
        exact ⟨h1, by simp only [rxCrcFeed, payWrite]; omega, g1, h4, e.symm⟩
      · rename_i h4
        have h4 : s.rxPcnt + 1 ≠ s.rxHdr[3].toNat := h4
        refine ⟨h1, by simp only [rxCrcFeed, payWrite]; omega, ?_⟩
        simp only [rxCrcFeed, payWrite, hs]
        exact ⟨g1, by omega, e.symm⟩
    · exact ⟨h1, h2, trivial⟩

theorem registersOk_decStep {e s} (h : RegistersOk s) : RegistersOk (decStep e s).1 := by
  have := decoderOk_decStep (e := e) h.1
  rw [decStep_frame] at this ⊢
  exact ⟨this, h.2, h.3, h.4, h.5, h.6⟩

/-- What an operation's registers must hold while it waits for a reply or decodes does not name the decoder's. -/
theorem operationOk_decStep {e s p} (hp : p.decodes = true) (h : s.opState = .busy p) (ho : OperationOk s) :
    OperationOk (decStep e s).1 ∧ (decStep e s).1.opState = .busy p := by
  rw [decStep_frame]
  refine ⟨?_, h⟩
  simp only [OperationOk, h] at ho ⊢
  cases p with
  | monitorPause => cases hp
  | passAgain => cases hp
  | readN => cases hp
  | frameRx => exact ho
  | reply k => cases k <;> exact ho

/-- One event keeps the invariant. -/
theorem blockInv_event {e s} (h : BlockInv s) : BlockInv (onEvent e s) := by
  have hc := registersOk_of h
  have ho := h.operation
  simp only [onEvent]
  split
  · exact h
  · exact h
  · exact h
  · rename_i hs
    obtain ⟨g1, g2⟩ := operationOk_decStep (e := e) rfl hs ho
    have gc := registersOk_decStep (e := e) hc
    have gs := decStep_seek e s
    have gt : (decStep e s).1.tmoSel = .normal := by simp only [OperationOk, g2] at g1; exact g1.1
    cases hd : (decStep e s).2 with
    | none => exact blockInv_of gc g1
    | pkt q => exact blockInv_result ⟨gc, gs (by simp [hd]), gt⟩
    | np r => exact blockInv_result ⟨gc, gs (by simp [hd]), gt⟩
  · rename_i k hs
    obtain ⟨g1, g2⟩ := operationOk_decStep (e := e) rfl hs ho
    have gc := registersOk_decStep (e := e) hc
    have gs := decStep_seek e s
    have gn := blockInv_of gc g1
    cases hd : (decStep e s).2 with
    | none => exact gn
    | pkt q =>
      simp only [waitReply]; split
      · exact blockInv_replyDone gc g2 g1 (gs (by simp [hd]))
      · exact gn
    | np r =>
      have g3 := blockInv_replyDone (r := none) gc g2 g1 (gs (by simp [hd]))
      cases r <;> simp only [waitReply]
      · exact g3
      · exact g3
      · exact gn
      · split
        · exact g3
        · exact gn
  · rename_i want got k hs
    simp only [OperationOk, hs] at ho
    obtain ⟨h1, h2, h3, h4⟩ := ho
    have hT : Ready (Pos.readN k.wanted [] k).timeout s := ⟨hc, h2, by rw [h1]; cases k <;> rfl⟩
    cases e with
    | tmo => exact blockInv_readDone hT
    | byte b =>
      simp only [readEvent]
      split
      · exact blockInv_readDone hT
      · refine blockInv_of ⟨decoderOk_congr hc.1 rfl rfl rfl rfl rfl rfl rfl, hc.2, hc.3, hc.4, hc.5, hc.6⟩ ⟨?_, h2, h3, ?_⟩
        · show s.tmoSel = _
          rw [h1]; cases k <;> rfl
        · simp only [List.length_append, List.length_singleton]; omega

end Sys2Proof.Machine
end

