-- ==== Sys2Proof/Laws/Memory.lean ====
section
/-!
SUPPORT. The firmware image: a read after a write, and the canonical form, which every operation keeps (20_memory.md
R76, R77).
-/

namespace Sys2Proof.Machine

@[simp] theorem read_nil (a : Nat) : Memory.read [] a = none := rfl

/-- Reading the address written gives the byte written. -/
theorem read_write_same (m : Memory) (a : Nat) (b : Byte) : (m.write a b).read a = some b := by
  induction m with
  | nil => simp [Memory.write, Memory.read]
  | cons kc rest ih =>
    obtain ⟨k, c⟩ := kc
    simp only [Memory.write]
    split
    · simp [Memory.read]
    · split
      · simp [Memory.read]
      · have : k ≠ a := fun h => by simp_all
        simp [Memory.read, this, ih]

/-- A write leaves every other address alone. -/
theorem read_write_other (m : Memory) {a a' : Nat} (b : Byte) (h : a' ≠ a) :
    (m.write a b).read a' = m.read a' := by
  induction m with
  | nil => simp [Memory.write, Memory.read, Memory.unlisted, h.symm]
  | cons kc rest ih =>
    obtain ⟨k, c⟩ := kc
    simp only [Memory.write]
    split
    · simp [Memory.read, h.symm]
    · split
      · simp_all [Memory.read, eq_comm]
      · simp [Memory.read, ih]

theorem risesFrom_mono {m : Memory} {lo lo' : Nat} (h : lo' ≤ lo) (hm : Memory.risesFrom lo m = true) :
    Memory.risesFrom lo' m = true := by
  cases m with
  | nil => rfl
  | cons kc rest =>
    simp only [Memory.risesFrom, Bool.and_eq_true, decide_eq_true_eq] at hm ⊢
    exact ⟨⟨by omega, hm.1.2⟩, hm.2⟩

theorem risesFrom_write {m : Memory} {lo a : Nat} (b : Byte) (hlo : lo ≤ a) (ha : a < 2 ^ 32)
    (hm : Memory.risesFrom lo m = true) : Memory.risesFrom lo (m.write a b) = true := by
  induction m generalizing lo with
  | nil => simp only [Memory.write, Memory.risesFrom, decide_eq_true hlo, decide_eq_true ha, Bool.and_self]
  | cons kc rest ih =>
    obtain ⟨k, c⟩ := kc
    simp only [Memory.risesFrom, Bool.and_eq_true, decide_eq_true_eq] at hm
    simp only [Memory.write]
    split
    · simp only [Memory.risesFrom, Bool.and_eq_true, decide_eq_true_eq]
      exact ⟨⟨hlo, ha⟩, ⟨⟨by omega, hm.1.2⟩, hm.2⟩⟩
    · split
      · simp only [Memory.risesFrom, Bool.and_eq_true, decide_eq_true_eq]
        subst_vars
        exact ⟨⟨hlo, ha⟩, hm.2⟩
      · simp only [Memory.risesFrom, Bool.and_eq_true, decide_eq_true_eq]
        exact ⟨hm.1, ih (by omega) hm.2⟩

/-- Loading a byte of the 32-bit space keeps the canonical form. -/
theorem write_wf {m : Memory} {a : Nat} (b : Byte) (ha : a < 2 ^ 32) (hm : m.wf = true) : (m.write a b).wf = true :=
  risesFrom_write b (Nat.zero_le a) ha hm

/-- The image after reset has the canonical form. -/
theorem reset_image_wf : State.reset.image.wf = true := rfl

/-- Below the first listed address nothing is listed. -/
theorem read_below {m : Memory} {lo a : Nat} (h : Memory.risesFrom lo m = true) (ha : a < lo) : m.read a = none := by
  induction m generalizing lo with
  | nil => rfl
  | cons kc rest ih =>
    obtain ⟨k, c⟩ := kc
    simp only [Memory.risesFrom, Bool.and_eq_true, decide_eq_true_eq] at h
    have hk : k ≠ a := by omega
    simp only [Memory.read, hk, if_false]
    exact ih h.2 (by omega)

/-- In canonical form, equal readings are equal images. -/
theorem read_ext {m m' : Memory} {lo : Nat} (h : Memory.risesFrom lo m = true) (h' : Memory.risesFrom lo m' = true)
    (hr : ∀ a, m.read a = m'.read a) : m = m' := by
  induction m generalizing lo m' with
  | nil =>
    cases m' with
    | nil => rfl
    | cons kc' rest' =>
      have := hr kc'.1
      simp [Memory.read, Memory.unlisted] at this
  | cons kc rest ih =>
    obtain ⟨k, c⟩ := kc
    cases m' with
    | nil => have := hr k; simp [Memory.read, Memory.unlisted] at this
    | cons kc' rest' =>
      obtain ⟨k', c'⟩ := kc'
      simp only [Memory.risesFrom, Bool.and_eq_true, decide_eq_true_eq] at h h'
      have hk : k = k' := by
        rcases Nat.lt_trichotomy k k' with hlt | heq | hgt
        · have e := hr k
          simp only [Memory.read, if_true, if_neg (Nat.ne_of_gt hlt)] at e
          rw [read_below h'.2 (by omega)] at e
          simp at e
        · exact heq
        · have e := hr k'
          simp only [Memory.read, if_true, if_neg (Nat.ne_of_gt hgt)] at e
          rw [read_below h.2 (by omega)] at e
          simp at e
      subst hk
      have hc : c = c' := by simpa [Memory.read] using hr k
      subst hc
      have : rest = rest' := ih h.2 h'.2 fun a => by
        by_cases ha : k = a
        · subst ha
          rw [read_below h.2 (by omega), read_below h'.2 (by omega)]
        · simpa [Memory.read, ha] using hr a
      rw [this]

end Sys2Proof.Machine
end

