-- ==== Sys2Proof/Laws/PerInstr.lean ====
section
/-!
SUPPORT. Statements for all instructions, one lemma per constructor of `Instr`: an operation's bytes begin with its opcode
and number at most `longestInstr` (30_encoding.md R120, R121).
-/

namespace Sys2Proof.Laws.EncodeHead

/-- A well-formed operation's bytes begin with its opcode, and there are 1 to 260 of them. -/
def Statement (i : Instr) : Prop :=
  WellFormed i = true → (encode i).head? = some (opcodeOf i) ∧ 1 ≤ (encode i).length ∧ (encode i).length ≤ longestInstr

/-- It holds where the operands are at most 259 bytes. -/
theorem of_length {i : Instr} (h : WellFormed i = true → (operandBytes i).length ≤ 259) : Statement i := fun hw =>
  ⟨rfl, by simp [encode], by have := h hw; simp only [encode, List.length_cons, longestInstr]; omega⟩

theorem crcClr : Statement .crcClr :=
  of_length fun _ => by simp [operandBytes]

theorem crcUpd (b : Byte) : Statement (.crcUpd b) :=
  of_length fun _ => by simp [operandBytes]

theorem frameTx (f a c : Byte) (payload : List Byte) : Statement (.frameTx f a c payload) :=
  of_length fun h => by
  have := of_decide_eq_true h
  simp only [operandBytes, List.length_cons]; omega

theorem frameRx : Statement .frameRx :=
  of_length fun _ => by simp [operandBytes]

theorem ping (a : Byte) : Statement (.ping a) :=
  of_length fun _ => by simp [operandBytes]

theorem enterDfu (a : Byte) : Statement (.enterDfu a) :=
  of_length fun _ => by simp [operandBytes]

theorem getIdentity (a : Byte) : Statement (.getIdentity a) :=
  of_length fun _ => by simp [operandBytes]

theorem setAddress (a : Byte) (text : List Byte) : Statement (.setAddress a text) :=
  of_length fun h => by
  have := of_decide_eq_true h
  simp only [operandBytes, List.length_cons]; omega

theorem getAdcRaw (a : Byte) : Statement (.getAdcRaw a) :=
  of_length fun _ => by simp [operandBytes]

theorem getStatus (a : Byte) : Statement (.getStatus a) :=
  of_length fun _ => by simp [operandBytes]

theorem shuntOn (a : Byte) : Statement (.shuntOn a) :=
  of_length fun _ => by simp [operandBytes]

theorem shuntOff (a : Byte) : Statement (.shuntOff a) :=
  of_length fun _ => by simp [operandBytes]

theorem setParameter (a id : Byte) (v : Word16) : Statement (.setParameter a id v) :=
  of_length fun _ => by simp [operandBytes]

theorem getParameter (a id : Byte) : Statement (.getParameter a id) :=
  of_length fun _ => by simp [operandBytes]

theorem discover (n : Byte) : Statement (.discover n) :=
  of_length fun _ => by simp [operandBytes]

theorem getAllParameters (a : Byte) : Statement (.getAllParameters a) :=
  of_length fun _ => by simp [operandBytes]

theorem monitor (n : Byte) : Statement (.monitor n) :=
  of_length fun _ => by simp [operandBytes]

theorem blSync : Statement .blSync :=
  of_length fun _ => by simp [operandBytes]

theorem blGetVersion : Statement .blGetVersion :=
  of_length fun _ => by simp [operandBytes]

theorem blLoadAddress (addr : BitVec 24) : Statement (.blLoadAddress addr) :=
  of_length fun _ => by simp [operandBytes]

theorem blWriteBlock (d : Vector Byte 16) : Statement (.blWriteBlock d) :=
  of_length fun _ => by simp [operandBytes]

theorem blReadBlock : Statement .blReadBlock :=
  of_length fun _ => by simp [operandBytes]

theorem blProgram : Statement .blProgram :=
  of_length fun _ => by simp [operandBytes]

theorem blVerify : Statement .blVerify :=
  of_length fun _ => by simp [operandBytes]

end Sys2Proof.Laws.EncodeHead
end

