-- ==== Sys2Proof/Tests/Slice0.lean ====
section
/-!
SUPPORT. Tests: the checks of WellFormed on ill-formed terms, a word written out from 30_encoding.md R120 and R121 for
every constructor, one-step vectors of 95_test_vectors.md (named in each comment), and for each statement with hypotheses
a concrete state and operands that meet them.
-/

namespace Sys2Proof.Tests

set_option Elab.async false

open Sys2Proof Sys2Proof.Machine Sys2Proof.Claims

/-! ## Helpers -/

/-- The state after reset with these host bytes and these `RX` answers offered. -/
def offer (host : List Byte) (rx : List RxEvent) : State := { State.reset with hostIn := host, rx := rx }

/-- The state after reset with these `RX` answers to come. -/
def answers (rx : List RxEvent) : State := { State.reset with rx := rx }

/-- The same, with an operation that waits. -/
def waits (p : Pos) (rx : List RxEvent) : State := { State.reset with opState := .busy p, rx := rx }

/-- The records of one step. -/
def records : Host.Outcome State Fault Refusal → List HostRecord
  | .next t => outOf t.portLog
  | .fault _ => []
  | .refused _ => []

/-- The bytes one step puts on `TX`. -/
def sent : Host.Outcome State Fault Refusal → List Byte
  | .next t => txOf t.portLog
  | .fault _ => []
  | .refused _ => []

/-- The image of program P4 of 95_test_vectors.md, in canonical form. -/
def imageP4 : Memory :=
  [(0x100, 0x00), (0x101, 0x01), (0x102, 0x02), (0x103, 0x03), (0x104, 0x04), (0x105, 0x05), (0x106, 0x06), (0x107, 0x07),
    (0x108, 0x08), (0x109, 0x09), (0x10A, 0x0A), (0x10B, 0x0B), (0x10C, 0x0C), (0x10D, 0x0D), (0x10E, 0x0E), (0x10F, 0x0F)] ++
  [(0x110, 0xFF), (0x111, 0xFF), (0x112, 0xFF), (0x113, 0xFF), (0x114, 0xFF), (0x115, 0xFF), (0x116, 0xFF), (0x117, 0xFF),
    (0x118, 0xFF), (0x119, 0xFF), (0x11A, 0xFF), (0x11B, 0xFF), (0x11C, 0xFF), (0x11D, 0xFF), (0x11E, 0xFF), (0x11F, 0xFF)] ++ [(0x125, 0xAA)] ++
  [(0x200, 0x11), (0x201, 0x11), (0x202, 0x11), (0x203, 0x11), (0x204, 0x11), (0x205, 0x11), (0x206, 0x11), (0x207, 0x11),
    (0x208, 0x11), (0x209, 0x11), (0x20A, 0x11), (0x20B, 0x11), (0x20C, 0x11), (0x20D, 0x11), (0x20E, 0x11), (0x20F, 0x11)]

/-- The block `00 01 .. 0F`. -/
def ramp : Vector Byte 16 := Vector.ofFn fun i => BitVec.ofNat 8 i

/-! ## WellFormed -/

theorem test_frameTx_256_ill_formed : WellFormed (.frameTx 0 3 1 (List.replicate 256 0)) = false := by
  decide +kernel

theorem test_setAddress_256_ill_formed : WellFormed (.setAddress 3 (List.replicate 256 0)) = false := by
  decide +kernel

theorem test_frameTx_255_well_formed : WellFormed (.frameTx 0 3 1 (List.replicate 255 0)) = true := by
  decide +kernel

/-! ## Decoding: one word per constructor, from R120 and R121 -/

theorem test_decode_crcClr : decode [0x00, 0xAA] = .instr .crcClr [0xAA] := by decide

theorem test_decode_crcUpd :
    decode [0x01, 0x55, 0xAA] = .instr (.crcUpd 0x55) [0xAA] := by decide

theorem test_decode_frameTx :
    decode [0x03, 0x80, 0x12, 0x34, 0x02, 0x55, 0xF0, 0xAA] = .instr (.frameTx 0x80 0x12 0x34 [0x55, 0xF0]) [0xAA] := by decide

theorem test_decode_frameRx : decode [0x04, 0xAA] = .instr .frameRx [0xAA] := by decide

theorem test_decode_ping :
    decode [0x11, 0x03, 0xAA] = .instr (.ping 3) [0xAA] := by decide

theorem test_decode_enterDfu :
    decode [0x12, 0x05, 0xAA] = .instr (.enterDfu 5) [0xAA] := by decide

theorem test_decode_getIdentity :
    decode [0x13, 0x03, 0xAA] = .instr (.getIdentity 3) [0xAA] := by decide

theorem test_decode_setAddress :
    decode [0x14, 0x09, 0x02, 0x31, 0x32, 0xAA] = .instr (.setAddress 9 [0x31, 0x32]) [0xAA] := by decide

theorem test_decode_getAdcRaw :
    decode [0x15, 0x03, 0xAA] = .instr (.getAdcRaw 3) [0xAA] := by decide

theorem test_decode_getStatus :
    decode [0x16, 0x07, 0xAA] = .instr (.getStatus 7) [0xAA] := by decide

theorem test_decode_shuntOn :
    decode [0x17, 0x03, 0xAA] = .instr (.shuntOn 3) [0xAA] := by decide

theorem test_decode_shuntOff :
    decode [0x18, 0x03, 0xAA] = .instr (.shuntOff 3) [0xAA] := by decide

theorem test_decode_setParameter :
    decode [0x19, 0x03, 0x02, 0x34, 0x12, 0xAA] = .instr (.setParameter 3 2 0x1234) [0xAA] := by decide

theorem test_decode_getParameter :
    decode [0x1A, 0x03, 0x02, 0xAA] = .instr (.getParameter 3 2) [0xAA] := by decide

theorem test_decode_discover :
    decode [0x20, 0x10, 0xAA] = .instr (.discover 16) [0xAA] := by decide

theorem test_decode_getAllParameters :
    decode [0x21, 0x03, 0xAA] = .instr (.getAllParameters 3) [0xAA] := by decide

theorem test_decode_monitor :
    decode [0x22, 0x04, 0xAA] = .instr (.monitor 4) [0xAA] := by decide

theorem test_decode_blSync : decode [0x30, 0xAA] = .instr .blSync [0xAA] := by decide

theorem test_decode_blGetVersion : decode [0x31, 0xAA] = .instr .blGetVersion [0xAA] := by decide

theorem test_decode_blLoadAddress :
    decode [0x32, 0xFE, 0xFF, 0x01, 0xAA] = .instr (.blLoadAddress 0x01FFFE) [0xAA] := by decide

theorem test_decode_blWriteBlock :
    decode [0x33, 0x00, 0x01, 0x02, 0x03, 0x04, 0x05, 0x06, 0x07, 0x08, 0x09, 0x0A, 0x0B, 0x0C, 0x0D, 0x0E, 0x0F, 0xAA] = .instr (.blWriteBlock ramp) [0xAA] := by decide

theorem test_decode_blReadBlock : decode [0x34, 0xAA] = .instr .blReadBlock [0xAA] := by decide

theorem test_decode_blProgram : decode [0x35, 0xAA] = .instr .blProgram [0xAA] := by decide

theorem test_decode_blVerify : decode [0x36, 0xAA] = .instr .blVerify [0xAA] := by decide

theorem test_decode_incomplete : decode [0x19, 0x03, 0x02, 0x34] = .incomplete := by decide

theorem test_decode_illegal : decode [0x1B, 0x11] = .illegal 0x1B [0x11] := by decide

theorem test_word_setParameter : decodeTableWord 40 0x1234020319 = some (.setParameter 3 2 0x1234) := by decide +kernel

/-! ## Steps: vectors of 95_test_vectors.md -/

/-- CRC-17. -/
theorem test_crcClr :
    records (step { offer [0x00] [] with crcAcc := 0xE3 }) = [.result .ok (.byte 0x00)] := by decide +kernel

/-- CRC-18. -/
theorem test_crcUpd :
    records (step (offer [0x01, 0x80]
      [])) =
      [.result .ok (.byte 0x89)] := by decide +kernel

/-- CRC-19. -/
theorem test_crcUpd_accumulates :
    records (step { offer [0x01, 0x89] [] with crcAcc := 0x89 }) = [.result .ok (.byte 0x00)] := by decide +kernel

/-- ENC-6, HOST-4. -/
theorem test_frameTx :
    (fun o => (records o, sent o)) (step (offer [0x03, 0x80, 0x12, 0x34, 0x02, 0x55, 0xF0]
      [])) =
      ([.result .ok (.count 12)],
        [0x55, 0x55, 0x55, 0x55, 0xF0, 0x80, 0x12, 0x34, 0x02, 0x55, 0xF0, 0xAE]) := by decide +kernel

/-- ENC-9. -/
theorem test_frameTx_reserved :
    (fun o => (records o, sent o)) (step (offer [0x03, 0x81, 0x03, 0x01, 0x00]
      [])) =
      ([.result .badInput (.byte 0x81)],
        []) := by decide +kernel

/-- DEC-2, the first attempt. -/
theorem test_frameRx :
    records (step (offer [0x04]
      [.byte 0x55, .byte 0x13, .byte 0x55, .byte 0x55, .byte 0x55, .byte 0x55, .byte 0xF0, .byte 0x80, .byte 0x03, .byte 0x01, .byte 0x00, .byte 0x99])) =
      [.result .noPacket (.reason .framing)] := by decide +kernel

/-- DEC-16. -/
theorem test_frameRx_packet :
    records (step (offer [0x04]
      [.byte 0x55, .byte 0x55, .byte 0x55, .byte 0x55, .byte 0xF0, .byte 0x80, .byte 0x12, .byte 0x34, .byte 0x02, .byte 0x55, .byte 0xF0, .byte 0xAE])) =
      [.result .ok (.packet ⟨0x12, 0x34, true, [0x55, 0xF0]⟩)] := by decide +kernel

/-- CMD-4. -/
theorem test_ping :
    (fun o => (records o, sent o)) (step (offer [0x11, 0x03]
      [.byte 0x55, .byte 0x55, .byte 0x55, .byte 0x55, .byte 0xF0, .byte 0x00, .byte 0x03, .byte 0x01, .byte 0x00, .byte 0xA8, .byte 0x55, .byte 0x55, .byte 0x55, .byte 0x55, .byte 0xF0, .byte 0x80, .byte 0x03, .byte 0x01, .byte 0x00, .byte 0x99])) =
      ([.result .ok (.byte 3)],
        [0x55, 0x55, 0x55, 0x55, 0xF0, 0x00, 0x03, 0x01, 0x00, 0xA8]) := by decide +kernel

/-- CMD-5, CRC_ENDS_WAIT = true. -/
theorem test_ping_badCrc :
    records (step (offer [0x11, 0x03]
      [.byte 0x55, .byte 0x55, .byte 0x55, .byte 0x55, .byte 0xF0, .byte 0x80, .byte 0x03, .byte 0x01, .byte 0x00, .byte 0x98, .byte 0x55, .byte 0x55, .byte 0x55, .byte 0x55, .byte 0xF0, .byte 0x80, .byte 0x03, .byte 0x01, .byte 0x00, .byte 0x99])) =
      [.result .noResponse (.byte 3)] := by decide +kernel

/-- CMD-8. -/
theorem test_enterDfu :
    (fun o => (records o, sent o)) (step (offer [0x12, 0x05]
      [])) =
      ([.result .ok (.byte 5)],
        [0x55, 0x55, 0x55, 0x55, 0xF0, 0x00, 0x05, 0x02, 0x00, 0xEA]) := by decide +kernel

/-- CMD-9. -/
theorem test_getIdentity :
    records (step (offer [0x13, 0x03]
      [.byte 0x55, .byte 0x55, .byte 0x55, .byte 0x55, .byte 0xF0, .byte 0x80, .byte 0x03, .byte 0x03, .byte 0x08, .byte 0xDE, .byte 0xAD, .byte 0xBE, .byte 0xEF, .byte 0x01, .byte 0x01, .byte 0x02, .byte 0x03, .byte 0x7A])) =
      [.result .ok (.device ⟨3, #v[0xDE, 0xAD, 0xBE, 0xEF], .known "T1", 1, 2, 3⟩)] := by decide +kernel

/-- CMD-10. -/
theorem test_getIdentity_unknownBoard :
    records (step (offer [0x13, 0x03]
      [.byte 0x55, .byte 0x55, .byte 0x55, .byte 0x55, .byte 0xF0, .byte 0x80, .byte 0x03, .byte 0x03, .byte 0x08, .byte 0xDE, .byte 0xAD, .byte 0xBE, .byte 0xEF, .byte 0x02, .byte 0x01, .byte 0x02, .byte 0x03, .byte 0x40])) =
      [.result .ok (.device ⟨3, #v[0xDE, 0xAD, 0xBE, 0xEF], .unknown 2, 1, 2, 3⟩)] := by decide +kernel

/-- CMD-12. -/
theorem test_setAddress :
    (fun o => (records o, sent o)) (step (offer [0x14, 0x09, 0x0B, 0x31, 0x32, 0x2D, 0x33, 0x34, 0x2D, 0x35, 0x36, 0x2D, 0x37, 0x38]
      [.byte 0x55, .byte 0x55, .byte 0x55, .byte 0x55, .byte 0xF0, .byte 0x80, .byte 0x09, .byte 0x04, .byte 0x04, .byte 0x12, .byte 0x34, .byte 0x56, .byte 0x78, .byte 0xBD])) =
      ([.result .ok (.bound 9 #v[0x12, 0x34, 0x56, 0x78])],
        [0x55, 0x55, 0x55, 0x55, 0xF0, 0x00, 0x09, 0x04, 0x04, 0x12, 0x34, 0x56, 0x78, 0x02]) := by decide +kernel

/-- CMD-14a. -/
theorem test_setAddress_badText :
    (fun o => (records o, sent o)) (step (offer [0x14, 0x09, 0x0B, 0x31, 0x32, 0x2D, 0x33, 0x34, 0x2D, 0x35, 0x36, 0x2D, 0x37, 0x47]
      [])) =
      ([.result .badInput (.bytes [0x31, 0x32, 0x2D, 0x33, 0x34, 0x2D, 0x35, 0x36, 0x2D, 0x37, 0x47])],
        []) := by decide +kernel

/-- CMD-15. -/
theorem test_getAdcRaw :
    (fun o => (records o, sent o)) (step (offer [0x15, 0x03]
      [.byte 0x55, .byte 0x55, .byte 0x55, .byte 0x55, .byte 0xF0, .byte 0x80, .byte 0x03, .byte 0x05, .byte 0x06, .byte 0x00, .byte 0x02, .byte 0x34, .byte 0x12, .byte 0xFF, .byte 0xFF, .byte 0xF1])) =
      ([.result .ok (.adc 512 4660 65535)],
        [0x55, 0x55, 0x55, 0x55, 0xF0, 0x00, 0x03, 0x05, 0x00, 0xFC]) := by decide +kernel

/-- CMD-16. -/
theorem test_getStatus :
    records (step (offer [0x16, 0x03]
      [.byte 0x55, .byte 0x55, .byte 0x55, .byte 0x55, .byte 0xF0, .byte 0x80, .byte 0x03, .byte 0x06, .byte 0x05, .byte 0x74, .byte 0x0E, .byte 0xF6, .byte 0xFF, .byte 0x02, .byte 0x5D])) =
      [.result .ok (.status ⟨3700, -10, .known .on⟩)] := by decide +kernel

/-- CMD-17. -/
theorem test_getStatus_unknownShunt :
    records (step (offer [0x16, 0x03]
      [.byte 0x55, .byte 0x55, .byte 0x55, .byte 0x55, .byte 0xF0, .byte 0x80, .byte 0x03, .byte 0x06, .byte 0x05, .byte 0x00, .byte 0x00, .byte 0x00, .byte 0x80, .byte 0x07, .byte 0xE3])) =
      [.result .ok (.status ⟨0, -32768, .unknown 7⟩)] := by decide +kernel

/-- CMD-18. -/
theorem test_shuntOn :
    (fun o => (records o, sent o)) (step (offer [0x17, 0x03]
      [.byte 0x55, .byte 0x55, .byte 0x55, .byte 0x55, .byte 0xF0, .byte 0x80, .byte 0x03, .byte 0x07, .byte 0x00, .byte 0xE7])) =
      ([.result .ok (.byte 3)],
        [0x55, 0x55, 0x55, 0x55, 0xF0, 0x00, 0x03, 0x07, 0x00, 0xD6]) := by decide +kernel

/-- CMD-18b. -/
theorem test_shuntOff :
    (fun o => (records o, sent o)) (step (offer [0x18, 0x03]
      [.byte 0x55, .byte 0x55, .byte 0x55, .byte 0x55, .byte 0xF0, .byte 0x80, .byte 0x03, .byte 0x08, .byte 0x00, .byte 0x24])) =
      ([.result .ok (.byte 3)],
        [0x55, 0x55, 0x55, 0x55, 0xF0, 0x00, 0x03, 0x08, 0x00, 0x15]) := by decide +kernel

/-- CMD-18a. -/
theorem test_shuntOff_noise :
    records (step (offer [0x18, 0x03]
      [.byte 0x55, .byte 0x55, .byte 0x55, .byte 0x55, .byte 0xF0, .byte 0x80, .byte 0x03, .byte 0x07, .byte 0x00, .byte 0xE7, .tmo])) =
      [.result .noResponse (.byte 3)] := by decide +kernel

/-- CMD-19. -/
theorem test_setParameter :
    (fun o => (records o, sent o)) (step (offer [0x19, 0x03, 0x02, 0x34, 0x12]
      [.byte 0x55, .byte 0x55, .byte 0x55, .byte 0x55, .byte 0xF0, .byte 0x80, .byte 0x03, .byte 0x09, .byte 0x03, .byte 0x02, .byte 0x34, .byte 0x12, .byte 0xB5])) =
      ([.result .ok (.param 2 0x1234)],
        [0x55, 0x55, 0x55, 0x55, 0xF0, 0x00, 0x03, 0x09, 0x03, 0x02, 0x34, 0x12, 0x3F]) := by decide +kernel

/-- CMD-22. -/
theorem test_setParameter_tooWide :
    (fun o => (records o, sent o)) (step (offer [0x19, 0x03, 0x01, 0x00, 0x01]
      [])) =
      ([.result .badInput (.word 0x0100)],
        []) := by decide +kernel

/-- CMD-24. -/
theorem test_getParameter :
    (fun o => (records o, sent o)) (step (offer [0x1A, 0x03, 0x02]
      [.byte 0x55, .byte 0x55, .byte 0x55, .byte 0x55, .byte 0xF0, .byte 0x80, .byte 0x03, .byte 0x0A, .byte 0x03, .byte 0x02, .byte 0x34, .byte 0x12, .byte 0x13])) =
      ([.result .ok (.param 2 0x1234)],
        [0x55, 0x55, 0x55, 0x55, 0xF0, 0x00, 0x03, 0x0A, 0x01, 0x02, 0xA6]) := by decide +kernel

/-- CMD-26. -/
theorem test_getParameter_wrongId :
    records (step (offer [0x1A, 0x03, 0x02]
      [.byte 0x55, .byte 0x55, .byte 0x55, .byte 0x55, .byte 0xF0, .byte 0x80, .byte 0x03, .byte 0x0A, .byte 0x03, .byte 0x01, .byte 0x34, .byte 0x12, .byte 0xAE])) =
      [.result .paramMismatch (.bytes [0x01, 0x34, 0x12])] := by decide +kernel

/-- SEQ-4. -/
theorem test_discover_lateReply :
    records (step (offer [0x20, 0x04]
      [.tmo, .tmo, .byte 0x55, .byte 0x55, .byte 0x55, .byte 0x55, .byte 0xF0, .byte 0x80, .byte 0x02, .byte 0x01, .byte 0x00, .byte 0xF2, .tmo, .tmo])) =
      [.result .ok (.addresses [])] := by decide +kernel

/-- SEQ-3. -/
theorem test_discover_above_max :
    (fun o => (records o, sent o)) (step (offer [0x20, 0x11]
      [])) =
      ([.result .badInput (.byte 17)],
        []) := by decide +kernel

/-- SEQ-5. -/
theorem test_getAllParameters :
    (fun o => (records o, sent o)) (step (offer [0x21, 0x03]
      [.byte 0x55, .byte 0x55, .byte 0x55, .byte 0x55, .byte 0xF0, .byte 0x80, .byte 0x03, .byte 0x0A, .byte 0x02, .byte 0x01, .byte 0x7F, .byte 0x6F, .tmo])) =
      ([.result .ok (.params [⟨1, "P1", .value 0x7F⟩, ⟨2, "P2", .noResponse⟩])],
        [0x55, 0x55, 0x55, 0x55, 0xF0, 0x00, 0x03, 0x0A, 0x01, 0x01, 0xAF, 0x55, 0x55, 0x55, 0x55, 0xF0, 0x00, 0x03, 0x0A, 0x01, 0x02, 0xA6]) := by decide +kernel

/-- SEQ-6. -/
theorem test_monitor :
    records (step { offer [0x22, 0x04] [.tmo, .tmo, .byte 0x55, .byte 0x55, .byte 0x55, .byte 0x55, .byte 0xF0, .byte 0x80, .byte 0x03, .byte 0x01, .byte 0x00, .byte 0x99, .tmo, .byte 0x55, .byte 0x55, .byte 0x55, .byte 0x55, .byte 0xF0, .byte 0x80, .byte 0x03, .byte 0x06, .byte 0x05, .byte 0x74, .byte 0x0E, .byte 0xF6, .byte 0xFF, .byte 0x02, .byte 0x5D] with stop := true }) =
      [.monitor 3 (.reading ⟨3700, -10, .known .on⟩), .result .ok (.addresses [3])] := by decide +kernel

/-- BL-4. -/
theorem test_blSync :
    (fun o => (records o, sent o)) (step (offer [0x30]
      [.byte 0x14, .byte 0x11, .byte 0x14, .byte 0x10])) =
      ([.result .ok (.count 2)],
        [0x30, 0x20, 0x30, 0x20]) := by decide +kernel

/-- BL-3. -/
theorem test_blSync_fails :
    records (step (offer [0x30]
      [.tmo, .tmo, .tmo, .tmo, .tmo])) =
      [.result .syncFailed (.count 5)] := by decide +kernel

/-- BL-5. -/
theorem test_blGetVersion :
    (fun o => (records o, sent o)) (step (offer [0x31]
      [.byte 0x14, .byte 0x08, .byte 0x10, .byte 0x14, .byte 0x06, .byte 0x10])) =
      ([.result .ok (.version 6 8)],
        [0x41, 0x82, 0x20, 0x41, 0x81, 0x20]) := by decide +kernel

/-- BL-6. -/
theorem test_blGetVersion_badMinor :
    (fun o => (records o, sent o)) (step (offer [0x31]
      [.byte 0x14, .byte 0x08, .byte 0x11])) =
      ([.result .blBadAck (.badVersion .minor [0x14, 0x08, 0x11])],
        [0x41, 0x82, 0x20]) := by decide +kernel

/-- BL-10. -/
theorem test_blLoadAddress :
    (fun o => (records o, sent o)) (step (offer [0x32, 0xFE, 0xFF, 0x01]
      [.byte 0x14, .byte 0x10])) =
      ([.result .ok (.word 0xFFFF)],
        [0x55, 0xFF, 0xFF, 0x20]) := by decide +kernel

/-- BL-11. -/
theorem test_blLoadAddress_odd :
    (fun o => (records o, sent o)) (step (offer [0x32, 0x01, 0x01, 0x00]
      [])) =
      ([.result .badInput (.addr24 0x0101)],
        []) := by decide +kernel

/-- BL-12. -/
theorem test_blWriteBlock :
    (fun o => (records o, sent o)) (step (offer [0x33, 0x00, 0x01, 0x02, 0x03, 0x04, 0x05, 0x06, 0x07, 0x08, 0x09, 0x0A, 0x0B, 0x0C, 0x0D, 0x0E, 0x0F]
      [.byte 0x14, .byte 0x10])) =
      ([.result .ok (.count 16)],
        [0x64, 0x00, 0x10, 0x46, 0x00, 0x01, 0x02, 0x03, 0x04, 0x05, 0x06, 0x07, 0x08, 0x09, 0x0A, 0x0B, 0x0C, 0x0D, 0x0E, 0x0F, 0x20]) := by decide +kernel

/-- BL-12a. -/
theorem test_blWriteBlock_timeout :
    records (step (offer [0x33, 0x00, 0x01, 0x02, 0x03, 0x04, 0x05, 0x06, 0x07, 0x08, 0x09, 0x0A, 0x0B, 0x0C, 0x0D, 0x0E, 0x0F]
      [.tmo])) =
      [.result .blBadAck (.bytes [])] := by decide +kernel

/-- BL-13b. -/
theorem test_blReadBlock :
    (fun o => (records o, sent o)) (step (offer [0x34]
      [.byte 0x14, .byte 0x14, .byte 0x10, .byte 0x14, .byte 0x10, .byte 0x14, .byte 0x10, .byte 0x14, .byte 0x10, .byte 0x14, .byte 0x10, .byte 0x14, .byte 0x10, .byte 0x14, .byte 0x10, .byte 0x14, .byte 0x10, .byte 0x10])) =
      ([.result .ok (.block #v[0x14, 0x10, 0x14, 0x10, 0x14, 0x10, 0x14, 0x10, 0x14, 0x10, 0x14, 0x10, 0x14, 0x10, 0x14, 0x10])],
        [0x74, 0x00, 0x10, 0x46, 0x20]) := by decide +kernel

/-- BL-13a. -/
theorem test_blReadBlock_badEnd :
    records (step (offer [0x34]
      [.byte 0x14, .byte 0xFF, .byte 0xFF, .byte 0xFF, .byte 0xFF, .byte 0xFF, .byte 0xFF, .byte 0xFF, .byte 0xFF, .byte 0xFF, .byte 0xFF, .byte 0xFF, .byte 0xFF, .byte 0xFF, .byte 0xFF, .byte 0xFF, .byte 0xFF, .byte 0x11])) =
      [.result .blBadAck (.bytes [0x14, 0xFF, 0xFF, 0xFF, 0xFF, 0xFF, 0xFF, 0xFF, 0xFF, 0xFF, 0xFF, 0xFF, 0xFF, 0xFF, 0xFF, 0xFF, 0xFF, 0x11])] := by decide +kernel

/-- BL-15, P4. -/
theorem test_blProgram :
    records (step { offer [0x35] [.byte 0x14, .byte 0x10, .byte 0x14, .byte 0x10, .byte 0x14, .byte 0x10, .byte 0x14, .byte 0x10] with image := imageP4 }) =
      [.result .ok (.count 2)] := by decide +kernel

/-- BL-15a. -/
theorem test_blProgram_aborts :
    records (step { offer [0x35] [.byte 0x14, .byte 0x10, .tmo] with image := imageP4 }) =
      [.result .blBadAck (.windowBase 0x0100)] := by decide +kernel

/-- R402, R41: a boundary that is not settled is run over as it stands; behind the last 32-bit window base `seq_idx` is 0
and below it again (log entry 11). -/
theorem test_boundary_above_last_window :
    ∀ s : State, s = { answers [] with cfg := { Config.fixture with bootBoundary := 0xFFFFFFFF } } →
      programLoop 7 0 0x100000000 s = waitAt (.passAgain (.program 7)) { s with seqIdx := 0 } := by
  rintro s rfl; rfl

/-- BL-16. -/
theorem test_blVerify :
    records (step { offer [0x36] ((ackReply ++ [0x14, 0x00, 0x01, 0x02, 0x03, 0x04, 0xFF, 0x06, 0x07, 0x08, 0x09, 0x0A, 0x0B,
      0x0C, 0x0D, 0x0E, 0x0F, 0x10] ++ ackReply ++ [0x14, 0xFF, 0xFF, 0xFF, 0xFF, 0xFF, 0xAA, 0xFF, 0xFF, 0xFF, 0xFF, 0xFF, 0xFF,
      0xFF, 0xFF, 0xFF, 0xFF, 0x10]).map RxEvent.byte) with image := imageP4 }) =
      [.result .verifyMismatch (.windows [0x0100])] := by decide +kernel

/-- HOST-1. -/
theorem test_badOp :
    (fun o => (records o, sent o)) (step (offer [0x02]
      [])) =
      ([.result .badOp (.byte 0x02)],
        []) := by decide +kernel

/-! ## Witnesses: for each statement with hypotheses, states and operands that meet them, for each clause -/

/-- A payload of the largest length. -/
def longest : List Byte := List.replicate 255 0x01

theorem longest_fits : longest.length ≤ 255 := by decide +kernel

/-- A reply, a `TMO`, and a frame of any address and command whose CRC byte is wrong (CMD-5): the kinds of answer. -/
def badFrame : Answer := .discarded 0x80 3 1 [] 0x98

theorem fits_badFrame : AnswerFits Config.fixture badFrame :=
  ⟨rfl, by decide, by decide +kernel⟩

theorem witness_CrcStepLinearOneToOne : crc8Step Config.fixture 0x01 0x02 = crc8Step Config.fixture 0x03 0x00 := by decide

theorem witness_CrcDetectsOneByteError : (0x00 : Byte) ≠ 0x80 := by decide

/-- Both sides of the payload bound (R173). -/
theorem witness_EncodeLayout :
    (⟨3, 1, true, longest⟩ : Packet).payload.length ≤ 255 ∧
    255 < (⟨3, 1, true, 0x00 :: longest⟩ : Packet).payload.length := by decide +kernel

/-- Both outcomes: a reserved flag bit, and the reply flag alone. -/
theorem witness_FrameTxOutcome :
    longest.length ≤ 255 ∧ (0x81 : Byte) &&& 0x7F ≠ 0x00 ∧ (0x80 : Byte) &&& 0x7F = 0x00 := by decide +kernel

theorem witness_OversizedPayloadRefused :
    255 < (0x00 :: longest).length ∧ (0x80 : Byte) &&& 0x7F = 0x00 := by decide +kernel

/-- A frame with a reserved flag bit, behind garbage; its CRC byte right (DEC-14) and wrong. -/
theorem witness_FrameRxDecodesFrame :
    (∀ k : Byte, (answers (([0xF0, 0x13] ++ List.replicate 3 0x55 ++ [0xF0] ++ bodyBytes 0x81 3 1 longest ++ [k]).map .byte ++
        [])).rxState = .seekPreamble) ∧
    (∀ b ∈ ([0xF0, 0x13] : List Byte), b ≠ 0x55) ∧ longest.length ≤ 255 ∧
    (0x8F : Byte) = crc8 Config.fixture (bodyBytes 0x81 3 1 []) ∧ (0x8E : Byte) ≠ crc8 Config.fixture (bodyBytes 0x81 3 1 []) :=
  ⟨fun _ => rfl, by decide, longest_fits, by decide +kernel, by decide +kernel⟩

/-- ENC-2, from both states of the decoder. -/
theorem witness_FrameRoundTrip :
    encodeFrame Config.fixture ⟨3, 1, true, []⟩ = some [0x55, 0x55, 0x55, 0x55, 0xF0, 0x80, 0x03, 0x01, 0x00, 0x99] ∧
    (answers []).rxState = .seekPreamble ∧ ({ answers [] with rxState := .seekSync } : State).rxState = .seekSync := by
  decide +kernel

/-- The first and the last byte that the statement changes. -/
theorem witness_OneByteErrorIsDiscarded :
    ∀ bytes : List Byte, bytes = [0x55, 0x55, 0x55, 0x55, 0xF0, 0x80, 0x03, 0x01, 0x00, 0x99] →
      encodeFrame Config.fixture ⟨3, 1, true, []⟩ = some bytes ∧ bytes.getD 5 0 ≠ 0x00 ∧ bytes.getD 9 0 ≠ 0x98 ∧ 9 < bytes.length ∧
        (answers ((bytes.set 9 0x98).map .byte)).rxState = .seekPreamble := by
  rintro _ rfl
  decide +kernel

theorem witness_TimeoutEndsDecodeAttempt :
    (waits .frameRx [.tmo]).opState = .busy .frameRx ∧ (waits .frameRx [.tmo]).rx = .tmo :: [] ∧
    ({ waits .frameRx [.tmo] with rxState := .readCrc } : State).opState = .busy .frameRx := by decide +kernel

theorem witness_FramingErrorConsumesByte :
    (answers ((List.replicate (0 + 1) 0x55 ++ [0x13]).map .byte ++ [])).rxState = .seekPreamble ∧
    (0x13 : Byte) ≠ 0x55 ∧ (0x13 : Byte) ≠ 0xF0 := by decide +kernel

theorem witness_GarbageIsSkipped :
    (waits .frameRx ([0x00, 0xF0].map .byte ++ [])).opState = .busy .frameRx ∧
    (waits (.reply (.ping 3)) ([0x00, 0xF0].map .byte ++ [])).opState = .busy (.reply (.ping 3)) ∧
    (waits (.reply (.ping 3)) ([0x00, 0xF0].map .byte ++ [])).rxState = .seekPreamble ∧
    ∀ b ∈ ([0x00, 0xF0] : List Byte), b ≠ 0x55 := by decide +kernel

theorem witness_FramesBackToBack :
    (⟨3, 1, true, []⟩ : Packet).payload.length ≤ 255 ∧ (⟨7, 1, true, longest⟩ : Packet).payload.length ≤ 255 ∧
    (answers ((frameBytes Config.fixture ⟨3, 1, true, []⟩ ++ frameBytes Config.fixture ⟨7, 1, true, longest⟩).map .byte ++ [])).rxState =
      .seekPreamble := by decide +kernel

/-- A command of each kind of request, with nothing to read. -/
theorem witness_RequestThenWait :
    requestOf (answers []).cfg (.ping 3) = some (3, 0x01, []) ∧
    requestOf (answers []).cfg (.setAddress 9 [0x31, 0x32, 0x2D, 0x33, 0x34, 0x2D, 0x35, 0x36, 0x2D, 0x37, 0x38]) =
      some (9, 0x04, [0x12, 0x34, 0x56, 0x78]) ∧
    requestOf (answers []).cfg (.setParameter 3 1 0xFF) = some (3, 0x09, [0x01, 0xFF]) ∧
    requestOf (answers []).cfg (.setParameter 3 2 0xFFFF) = some (3, 0x09, [0x02, 0xFF, 0xFF]) ∧
    requestOf (answers []).cfg (.getParameter 3 2) = some (3, 0x0A, [0x02]) ∧ (answers []).rx = [] := by decide +kernel

/-- A reply from another address, and the echo of the own request. -/
theorem witness_NoiseIsIgnored :
    ∀ q : Packet, q = ⟨4, 1, true, []⟩ ∨ q = ⟨3, 1, false, []⟩ →
      ∀ s : State, s = { waits (.reply (.ping 3)) ((frameBytes Config.fixture q).map .byte ++ []) with sesAddr := 3, sesCmd := 1 } →
        s.opState = .busy (.reply (.ping 3)) ∧ s.rxState = .seekPreamble ∧ q.payload.length ≤ 255 ∧
          ¬ (q.address = s.sesAddr ∧ q.command = s.sesCmd ∧ q.isReply = true) ∧
          s.rx = (frameBytes s.cfg q).map .byte ++ [] := by
  rintro q (rfl | rfl) s rfl <;> exact ⟨rfl, rfl, by decide, by decide, rfl⟩

theorem witness_FramingErrorKeepsWait :
    (waits (.reply (.ping 3)) ((List.replicate (0 + 1) 0x55 ++ [0x13]).map .byte ++ [])).opState =
      .busy (.reply (.ping 3)) ∧
    (waits (.reply (.ping 3)) ((List.replicate (0 + 1) 0x55 ++ [0x13]).map .byte ++ [])).rxState = .seekPreamble ∧
    (0x13 : Byte) ≠ 0x55 ∧ (0x13 : Byte) ≠ 0xF0 := by decide +kernel

/-- Both settings of `CRC_ENDS_WAIT`. -/
theorem witness_CrcErrorDuringWait :
    (0x98 : Byte) ≠ crc8 Config.fixture (bodyBytes 0x80 3 1 []) ∧ ([] : List Byte).length ≤ 255 ∧
    (answers []).cfg.crcEndsWait = true ∧ requestOf (answers []).cfg (.ping 3) = some (3, 0x01, []) ∧
    ({ answers [] with cfg := { Config.fixture with crcEndsWait := false } } : State).cfg.crcEndsWait = false ∧
    (waits (.reply (.ping 3)) []).opState = .busy (.reply (.ping 3)) := by decide +kernel

/-- A `TMO` before a frame and in the middle of one, for a command and for a sequence. -/
theorem witness_TimeoutEndsReplyWait :
    (waits (.reply (.ping 3)) [.tmo]).opState = .busy (.reply (.ping 3)) ∧ commandTarget (.ping 3) = some 3 ∧
    ({ waits (.reply (.discover 4)) [.tmo] with rxState := .readHeader, rxHcnt := 2 } : State).opState =
      .busy (.reply (.discover 4)) ∧
    ({ waits (.reply (.discover 4)) [.tmo] with rxState := .readHeader, rxHcnt := 2 } : State).rx = .tmo :: [] := by
  decide +kernel

/-- A reply with the longest payload, and both ways of no reply: the kinds of answer of every exchange. -/
theorem witness_PingOutcome :
    AnswerFits Config.fixture (.reply longest) ∧ AnswerFits Config.fixture .timeout ∧
    AnswerFits Config.fixture badFrame ∧
    ∀ ans, ∀ s : State, s = answers (answerEvents Config.fixture 3 0x01 ans ++ []) →
      s.rxState = .seekPreamble ∧ s.rx = answerEvents s.cfg 3 0x01 ans ++ [] := by
  refine ⟨longest_fits, trivial, fits_badFrame, ?_⟩
  rintro ans s rfl; exact ⟨rfl, rfl⟩

theorem witness_ShuntOutcomes :
    AnswerFits Config.fixture (.reply longest) ∧ AnswerFits Config.fixture badFrame ∧
    ∀ ans c, ∀ s : State, s = answers (answerEvents Config.fixture 3 c ans ++ []) →
      s.rxState = .seekPreamble ∧ s.rx = answerEvents s.cfg 3 c ans ++ [] := by
  refine ⟨longest_fits, fits_badFrame, ?_⟩
  rintro ans c s rfl; exact ⟨rfl, rfl⟩

/-- Eight bytes; the longest other payload; a discarded frame and a `TMO`. -/
theorem witness_IdentityOutcome :
    (∀ ans, ∀ s : State, s = answers (answerEvents Config.fixture 3 0x03 ans ++ []) →
      s.rxState = .seekPreamble ∧ s.rx = answerEvents s.cfg 3 0x03 ans ++ []) ∧
    (longest.length ≤ 255 ∧ longest.length ≠ 8) ∧
    (AnswerFits Config.fixture badFrame ∧ badFrame.payload = none) ∧
    (AnswerFits Config.fixture .timeout ∧ Answer.timeout.payload = none) := by
  refine ⟨?_, by decide +kernel, ⟨fits_badFrame, rfl⟩, trivial, rfl⟩
  rintro ans s rfl; exact ⟨rfl, rfl⟩

/-- A text that is refused, and one that is not, with the echo and another answer. -/
theorem witness_SetAddressOutcome :
    parseUid [0x31, 0x32, 0x3A, 0x33, 0x34, 0x3A, 0x35, 0x36, 0x3A, 0x37, 0x38] = none ∧
    parseUid [0x31, 0x32, 0x2D, 0x33, 0x34, 0x2D, 0x35, 0x36, 0x2D, 0x37, 0x38] = some #v[0x12, 0x34, 0x56, 0x78] ∧
    AnswerFits Config.fixture (.reply [0x12, 0x34, 0x56, 0x78]) ∧ AnswerFits Config.fixture (.reply longest) ∧
    AnswerFits Config.fixture badFrame :=
  ⟨by decide +kernel, by decide +kernel, (by decide : ([0x12, 0x34, 0x56, 0x78] : List Byte).length ≤ 255), longest_fits,
    fits_badFrame⟩

theorem witness_AdcOutcome :
    (∀ ans, ∀ s : State, s = answers (answerEvents Config.fixture 3 0x05 ans ++ []) →
      s.rxState = .seekPreamble ∧ s.rx = answerEvents s.cfg 3 0x05 ans ++ []) ∧
    (longest.length ≤ 255 ∧ longest.length ≠ 6) ∧ (AnswerFits Config.fixture badFrame ∧ badFrame.payload = none) := by
  refine ⟨?_, by decide +kernel, fits_badFrame, rfl⟩
  rintro ans s rfl; exact ⟨rfl, rfl⟩

theorem witness_StatusOutcome :
    (∀ ans, ∀ s : State, s = answers (answerEvents Config.fixture 3 0x06 ans ++ []) →
      s.rxState = .seekPreamble ∧ s.rx = answerEvents s.cfg 3 0x06 ans ++ []) ∧
    (longest.length ≤ 255 ∧ longest.length ≠ 5) ∧ (AnswerFits Config.fixture badFrame ∧ badFrame.payload = none) := by
  refine ⟨?_, by decide +kernel, fits_badFrame, rfl⟩
  rintro ans s rfl; exact ⟨rfl, rfl⟩

/-- An id outside the registry; a one-byte parameter with the first value that does not fit and the last that does; a
two-byte parameter. -/
theorem witness_SetParameterOutcome :
    paramWidth (answers []).cfg 5 = none ∧
    (paramWidth (answers []).cfg 1 = some .one ∧ 0xFF < (0x0100 : Word16).toNat ∧ (0x00FF : Word16).toNat ≤ 0xFF) ∧
    paramWidth (answers []).cfg 2 = some .two ∧
    (answers (answerEvents Config.fixture 3 0x09 (.reply [0x01, 0xFF]) ++ [])).rx = answerEvents Config.fixture 3 0x09 (.reply [0x01, 0xFF]) ++ [] ∧
    (answers (answerEvents Config.fixture 3 0x09 (.reply [0x01, 0xFF]) ++ [])).rxState = .seekPreamble := by decide +kernel

/-- An id outside the registry; both widths, with an accepted and a refused payload. -/
theorem witness_GetParameterOutcome :
    paramWidth (answers []).cfg 5 = none ∧ paramWidth (answers []).cfg 1 = some .one ∧
    paramWidth (answers []).cfg 2 = some .two ∧ paramReading 2 .two [0x02, 0x34, 0x12] = some 0x1234 ∧
    paramReading 1 .one [0x01, 0x7F, 0x00] = none ∧
    (answers (answerEvents Config.fixture 3 0x0A (.reply []) ++ [])).rx = answerEvents Config.fixture 3 0x0A (.reply []) ++ [] ∧
    (answers (answerEvents Config.fixture 3 0x0A (.reply []) ++ [])).rxState = .seekPreamble := by decide +kernel

/-- The last named board type and the first unnamed one; the default shunt map; an id of the registry and one outside. -/
theorem witness_NameTables :
    (1 : Byte).toNat < Config.fixture.boardTypes.length ∧ Config.fixture.boardTypes.length ≤ (2 : Byte).toNat ∧
    Config.fixture.shuntStates = defaultShuntStates ∧ (Config.fixture.registry.map ParamDescriptor.id).Nodup ∧
    ⟨2, .two, "P2"⟩ ∈ Config.fixture.registry ∧ ∀ d ∈ Config.fixture.registry, d.id ≠ 5 := by decide +kernel

/-- The answers of a bus of `n` nodes where node 3 answers, node 2's reply is spoilt and the others are silent. -/
def onlyThree (n : Nat) : List Answer :=
  (List.range n).map fun i => if i = 2 then .reply [] else if i = 1 then badFrame else .timeout

theorem onlyThree_fits (n : Nat) : ∀ ans ∈ onlyThree n, AnswerFits Config.fixture ans := by
  intro ans h
  simp only [onlyThree, List.mem_map] at h
  obtain ⟨i, -, rfl⟩ := h
  split
  · exact Nat.zero_le 255
  · split
    · exact fits_badFrame
    · trivial

/-- The first address above `DISCOVER_MAX`; a scan up to it; a scan of no address. -/
theorem witness_DiscoverOutcome :
    (answers []).cfg.discoverMax.toNat < (17 : Byte).toNat ∧
    (∀ s : State, s = answers (scanEvents Config.fixture 1 (onlyThree 16) ++ []) →
      (16 : Byte).toNat ≤ s.cfg.discoverMax.toNat ∧ (onlyThree 16).length = (16 : Byte).toNat ∧
      (∀ ans ∈ onlyThree 16, AnswerFits s.cfg ans) ∧ s.rx = scanEvents s.cfg 1 (onlyThree 16) ++ [] ∧
      s.rxState = .seekPreamble) ∧
    ((0 : Byte).toNat ≤ (answers []).cfg.discoverMax.toNat ∧ (onlyThree 0).length = (0 : Byte).toNat) := by
  refine ⟨by decide, ?_, by decide, by decide⟩
  rintro s rfl
  exact ⟨(by decide : (16 : Byte).toNat ≤ Config.fixture.discoverMax.toNat), by decide, onlyThree_fits 16, rfl, rfl⟩

/-- The fixture's registry, the first entry answered and the second not (SEQ-5). -/
theorem witness_GetAllParametersOutcome :
    ∀ entries : List (ParamDescriptor × Answer),
      entries = [(⟨1, .one, "P1"⟩, .reply [0x01, 0x7F]), (⟨2, .two, "P2"⟩, badFrame)] →
      ∀ s : State, s = answers (entries.flatMap (fun e => answerEvents Config.fixture 3 0x0A e.2) ++ []) →
        entries.map Prod.fst = s.cfg.registry ∧ (s.cfg.registry.map ParamDescriptor.id).Nodup ∧
          (∀ e ∈ entries, AnswerFits s.cfg e.2) ∧ s.rxState = .seekPreamble ∧
          s.rx = entries.flatMap (fun e => answerEvents s.cfg 3 0x0A e.2) ++ [] := by
  rintro _ rfl s rfl
  refine ⟨rfl, (by decide : (Config.fixture.registry.map ParamDescriptor.id).Nodup), fun e he => ?_, rfl, rfl⟩
  simp only [List.mem_cons, List.not_mem_nil, or_false] at he
  rcases he with rfl | rfl
  · exact (by decide : ([0x01, 0x7F] : List Byte).length ≤ 255)
  · exact fits_badFrame

/-- A refused operand, and a scan and round with `STOP` high and low. -/
theorem witness_MonitorOutcome :
    (answers []).cfg.discoverMax.toNat < (17 : Byte).toNat ∧
    ∀ level : Bool, ∀ s : State,
      s = { answers (scanEvents Config.fixture 1 (onlyThree 4) ++ pollEvents Config.fixture [(3, badFrame)] ++ []) with
        stop := level } →
      (4 : Byte).toNat ≤ s.cfg.discoverMax.toNat ∧ (onlyThree 4).length = (4 : Byte).toNat ∧
        (∀ ans ∈ onlyThree 4, AnswerFits s.cfg ans) ∧ [(3, badFrame)].map Prod.fst = scanPresent 1 (onlyThree 4) ∧
        (∀ p ∈ [((3 : Byte), badFrame)], AnswerFits s.cfg p.2) ∧ s.rxState = .seekPreamble ∧
        s.rx = scanEvents s.cfg 1 (onlyThree 4) ++ pollEvents s.cfg [(3, badFrame)] ++ [] ∧
        level = s.stopNext.headD s.stop := by
  refine ⟨by decide, ?_⟩
  rintro level s rfl
  refine ⟨(by decide : (4 : Byte).toNat ≤ Config.fixture.discoverMax.toNat), by decide, onlyThree_fits 4, by decide,
    fun p hp => ?_, rfl, rfl, rfl⟩
  rw [List.mem_singleton.1 hp]; exact fits_badFrame

/-- A round with `STOP` going high in it, and one with it low. -/
theorem witness_MonitorNextRound :
    ∀ level : Bool, ∀ s : State,
      s = { waits .monitorPause (pollEvents Config.fixture [(3, .reply longest)] ++ []) with
        seqPresent := [3], stopNext := [level] } →
      s.opState = .busy .monitorPause ∧ [((3 : Byte), Answer.reply longest)].map Prod.fst = s.seqPresent ∧
        (∀ p ∈ [((3 : Byte), Answer.reply longest)], AnswerFits s.cfg p.2) ∧ s.rxState = .seekPreamble ∧
        s.rx = pollEvents s.cfg [(3, .reply longest)] ++ [] ∧ level = s.stopNext.headD s.stop := by
  rintro level s rfl
  refine ⟨rfl, rfl, fun p hp => ?_, rfl, rfl, rfl⟩
  rw [List.mem_singleton.1 hp]; exact longest_fits

/-- Four failing attempts before the last one, and five. -/
theorem witness_BlSyncOutcome :
    (∀ r ∈ ([[], [0x14, 0x11], [0x14], [0x10, 0x14]] : List (List Byte)), r.length ≤ 2 ∧ r ≠ ackReply) ∧
    ([[], [0x14, 0x11], [0x14], [0x10, 0x14]] : List (List Byte)).length < (answers []).cfg.syncAttempts ∧
    ([[], [], [], [], []] : List (List Byte)).length = (answers []).cfg.syncAttempts ∧
    (answers (([[]] ++ [ackReply]).flatMap (readEvents 2) ++ [])).rx =
      ([[]] ++ [ackReply]).flatMap (readEvents 2) ++ [] := by decide +kernel

/-- Both good replies, and a malformed one of no bytes and of three. -/
theorem witness_BlVersionOutcome :
    (answers (readEvents 3 [0x14, 8, 0x10] ++ readEvents 3 [0x14, 6, 0x10] ++ [])).rx =
      readEvents 3 [0x14, 8, 0x10] ++ readEvents 3 [0x14, 6, 0x10] ++ [] ∧
    (([] : List Byte).length ≤ 3 ∧ ∀ v : Byte, ([] : List Byte) ≠ [0x14, v, 0x10]) ∧
    (([0x14, 8, 0x11] : List Byte).length ≤ 3 ∧ ∀ v : Byte, ([0x14, 8, 0x11] : List Byte) ≠ [0x14, v, 0x10]) := by
  decide +kernel

/-- An odd address, the first above the limit, and the lowest and highest that are allowed. -/
theorem witness_BlLoadAddressOutcome :
    (0x000101 : BitVec 24).toNat % 2 = 1 ∧ 0x20000 ≤ (0x020000 : BitVec 24).toNat ∧
    (2 * (0xFFFF : Word16).toNat = (0x01FFFE : BitVec 24).toNat ∧ 2 * (0x0000 : Word16).toNat = (0 : BitVec 24).toNat) ∧
    ackReply.length ≤ 2 ∧ (answers (readEvents 2 ackReply ++ [])).rx = readEvents 2 ackReply ++ [] ∧
    (answers (readEvents 2 [] ++ [])).rx = readEvents 2 [] ++ [] := by decide +kernel

theorem witness_BlWriteBlockOutcome :
    ackReply.length ≤ 2 ∧ (answers (readEvents 2 ackReply ++ [])).rx = readEvents 2 ackReply ++ [] ∧
    ([0x14, 0x11] : List Byte).length ≤ 2 ∧ [0x14, 0x11] ≠ ackReply := by decide +kernel

/-- A block, and replies that are none: no byte, and 18 with a wrong last one. -/
theorem witness_BlReadBlockOutcome :
    (answers (readEvents 18 (blockReply ramp) ++ [])).rx = readEvents 18 (blockReply ramp) ++ [] ∧
    (([] : List Byte).length ≤ 18 ∧ ∀ d, ([] : List Byte) ≠ blockReply d) ∧
    ((List.replicate 18 (0x14 : Byte)).length ≤ 18 ∧ ∀ d, List.replicate 18 (0x14 : Byte) ≠ blockReply d) := by
  refine ⟨rfl, ⟨by decide, fun d h => ?_⟩, by decide, fun d h => ?_⟩
  · simp [blockReply] at h
  · have e : (blockReply d).getLast? = some 0x10 := List.getLast?_concat
    rw [← h] at e
    exact absurd e (by decide)

theorem witness_BootRequestBytes : ({} : StkCodes) = {} := rfl

/-- The windows of program P4 that are not blank. -/
theorem windows_imageP4 : dataWindows imageP4 0x200 = [0x100, 0x120] := by decide +kernel

/-- The image of program P4: a listed byte, the hole behind it, and both kinds of address in a read after a write. -/
theorem witness_WindowFillsAbsent :
    imageP4.wf = true ∧ (0x120 + (5 : Fin 16).val, (0xAA : Byte)) ∈ imageP4 ∧
    (∀ x, (0x120 + (6 : Fin 16).val, x) ∉ imageP4) ∧ (0x126 ≠ 0x125 ∧ 0xFFFFFFFF < 2 ^ 32) := by
  refine ⟨by decide +kernel, by decide +kernel, fun x h => ?_, by decide⟩
  exact absurd (List.mem_map_of_mem (f := Prod.fst) h) (by decide +kernel : 0x126 ∉ imageP4.map Prod.fst)

/-- Program P4's image, and the largest boundary. -/
theorem witness_BlProgramWritesAll :
    dataWindows imageP4 0x200 = [0x100, 0x120] ∧ Config.fixture.bootBoundary.toNat = 0x200 ∧
    (0x20000 : Word32).toNat % 16 = 0 ∧ (0x20000 : Word32).toNat ≤ 0x20000 ∧
    ∀ s : State, s = { answers (programAcks [0x100, 0x120] ++ []) with image := imageP4 } →
      s.rx = programAcks [0x100, 0x120] ++ [] := by
  refine ⟨windows_imageP4, by decide, by decide, by decide, ?_⟩
  rintro s rfl; rfl

/-- The failing window first and last. -/
theorem witness_BlProgramAborts :
    [] ++ 0x100 :: [0x120] = dataWindows imageP4 0x200 ∧ [0x100] ++ 0x120 :: [] = dataWindows imageP4 0x200 ∧
    Config.fixture.bootBoundary.toNat = 0x200 ∧ ([] : List Byte).length ≤ 2 ∧ ([] : List Byte) ≠ ackReply ∧
    (answers (programAcks [0x100] ++ readEvents 2 ackReply ++ readEvents 2 [] ++ [])).rx =
      programAcks [0x100] ++ readEvents 2 ackReply ++ readEvents 2 [] ++ [] :=
  ⟨windows_imageP4.symm, windows_imageP4.symm, by decide, by decide, by decide, rfl⟩

/-- A failing and a good window; each kind of answer. -/
theorem witness_BlVerifyOutcome :
    ([(0x100, .readBack (window imageP4 0x120)), (0x120, .readBack (window imageP4 0x120))] :
      List (Nat × WindowReply)).map Prod.fst = dataWindows imageP4 0x200 ∧
    (WindowReply.loadFailed []).fits ∧ (WindowReply.readFailed []).fits ∧ (WindowReply.readBack ramp).fits ∧
    (WindowReply.readBack (window imageP4 0x120)).fails (window imageP4 0x100) = true ∧
    (WindowReply.readBack (window imageP4 0x120)).fails (window imageP4 0x120) = false := by
  refine ⟨windows_imageP4.symm, ⟨by decide, by decide⟩, ⟨by decide, fun d h => ?_⟩, trivial, by decide +kernel,
    by decide +kernel⟩
  simp [blockReply] at h

theorem witness_DecodeEncode :
    WellFormed (.frameTx 0x80 3 1 longest) = true ∧ WellFormed (.setAddress 3 longest) = true ∧
    WellFormed .blVerify = true := by decide +kernel

theorem witness_EncodeDecode :
    decode [0x03, 0x00, 0x03, 0x01, 0x00, 0x11] = .instr (.frameTx 0 3 1 []) [0x11] ∧
    decode [0x11, 0x03] = .instr (.ping 3) [] := by decide

/-- The ends of each range of illegal opcodes. -/
theorem witness_IllegalOpcodes :
    ∀ op ∈ ([0x02, 0x05, 0x10, 0x1B, 0x1F, 0x23, 0x2F, 0x37, 0xFF] : List Byte),
      (offer [op] []).opState = .idle ∧ (offer [op] []).hostIn = op :: [] ∧
        (op.toNat = 0x02 ∨ (0x05 ≤ op.toNat ∧ op.toNat ≤ 0x10) ∨ (0x1B ≤ op.toNat ∧ op.toNat ≤ 0x1F) ∨
          (0x23 ≤ op.toNat ∧ op.toNat ≤ 0x2F) ∨ 0x37 ≤ op.toNat) := by decide +kernel

/-- A whole operation, a part of one, and a running one. -/
theorem witness_StepRunsOperation :
    (offer [0x11, 0x03] []).opState = .idle ∧ decode (offer [0x11, 0x03] []).hostIn = .instr (.ping 3) [] ∧
    decode (offer [0x11] []).hostIn = .incomplete ∧
    (waits (.reply (.ping 3)) []).opState = .busy (.reply (.ping 3)) := by decide +kernel

theorem witness_WaitForEvent :
    (waits (.readN 2 [] .sync) []).opState = .busy (.readN 2 [] .sync) ∧
    (Pos.readN 2 [] .sync).awaitsRx = true ∧ (waits (.readN 2 [] .sync) []).rx = [] := by decide +kernel

/-- PING 3 waits, with the flags and address of a frame taken; the next event is its command byte. -/
def midPing : State :=
  { waits (.reply (.ping 3)) [.byte 0x01] with
    sesAddr := 3
    sesCmd := 1
    rxState := .readHeader
    rxHdr := #v[0x80, 0x03, 0x00, 0x00]
    rxHcnt := 2
    rxCrc := crc8 Config.fixture [0x80, 0x03] }

theorem crc_midPing : midPing.rxCrc = crc8 midPing.cfg (midPing.rxHdr.toList.take midPing.rxHcnt) := by
  decide +kernel

theorem witness_InvariantKept : BlockInv midPing ∧ ∃ t, step midPing = .next t := by
  refine ⟨⟨⟨by decide, by decide, by decide, rfl, crc_midPing⟩, ⟨rfl, rfl, rfl⟩, List.Pairwise.nil,
    (fun x hx => by cases hx), by decide, by decide, by decide⟩, _, rfl⟩

theorem witness_OperationWritesOnly :
    (∃ t, exec .crcClr (answers []) = .next t) ∧ midPing.opState = .busy (.reply (.ping 3)) ∧
    ∃ t, step midPing = .next t := ⟨⟨_, rfl⟩, rfl, _, rfl⟩

theorem witness_OneResultPerOperation :
    (∃ t, exec (.ping 3) (answers [.tmo]) = .next t) ∧ midPing.opState = .busy (.reply (.ping 3)) ∧
    ∃ t, step midPing = .next t := ⟨⟨_, rfl⟩, rfl, _, rfl⟩

theorem witness_EventsTakenInOrder : ∃ t, step midPing = .next t := ⟨_, rfl⟩

end Sys2Proof.Tests
end

/-!
SUPPORT. One step of the block, cut at its reads: an operation up to its first read (`opening`), a running operation up
to its next one (`reopening`), and behind both the events there are (`pump`). What is proved of the two parts and of one
event holds of every step.
-/

namespace Sys2Proof.Machine

/-! ## The part of a step before its reads -/

/-- An operation up to its result or its first read (40_crc8.md to 45_bootloader.md). -/
def opening (i : Instr) (s : State) : State :=
  match i with
  | .crcClr => result .ok (.byte s.cfg.crcInit.val) { s with crcAcc := s.cfg.crcInit.val }
  | .crcUpd b => result .ok (.byte (crc8Step s.cfg s.crcAcc b)) { s with crcAcc := crc8Step s.cfg s.crcAcc b }
  | .frameTx f a c payload =>
    if reservedFlags f ≠ 0 then raiseFail .badInput (.byte f) s
    else
      match encodeFrame s.cfg ⟨a, c, replyFlag s.cfg f, payload⟩ with
      | some bytes => result .ok (.count bytes.length) (txWrites bytes s)
      | none => raiseFail .badInput (.bytes payload) s
  | .frameRx => waitAt .frameRx s
  | .ping a => exchange a 0x01 [] (.ping a) s
  | .enterDfu a => result .ok (.byte a) (sendRequest a 0x02 [] s)
  | .getIdentity a => exchange a 0x03 [] (.getIdentity a) s
  | .setAddress a text =>
    match parseUid text with
    | none => raiseFail .badInput (.bytes text) s
    | some uid => exchange a 0x04 uid.toList (.setAddress a uid) s
  | .getAdcRaw a => exchange a 0x05 [] (.getAdcRaw a) s
  | .getStatus a => exchange a 0x06 [] (.getStatus a) s
  | .shuntOn a => exchange a 0x07 [] (.shuntOn a) s
  | .shuntOff a => exchange a 0x08 [] (.shuntOff a) s
  | .setParameter a id v =>
    match paramWidth s.cfg id with
    | none => raiseFail .badInput (.byte id) s
    | some w =>
      if fitsWidth v w then exchange a 0x09 (id :: leValue v w) (.setParameter a id v (id :: leValue v w)) s
      else raiseFail .badInput (.word v) s
  | .getParameter a id =>
    match paramWidth s.cfg id with
    | none => raiseFail .badInput (.byte id) s
    | some w => exchange a 0x0A [id] (.getParameter a id w) s
  | .discover n =>
    if s.cfg.discoverMax.toNat < n.toNat then raiseFail .badInput (.byte n) s
    else scanFrom n 1 (.discover n) discoverEnd (scanStart s)
  | .getAllParameters a => getAllFrom a 0 { s with seqIdx := 0, seqResults := [] }
  | .monitor n =>
    if s.cfg.discoverMax.toNat < n.toNat then raiseFail .badInput (.byte n) s
    else scanFrom n 1 (.monitorScan n) monitorScanEnd (scanStart s)
  | .blSync => syncTry { s with blRetry := 0 }
  | .blGetVersion => bootExchange (versionRequest s.cfg.stk .minor) 3 .versionMinor s
  | .blLoadAddress addr =>
    if loadAddressOk addr.toNat then
      bootExchange (loadAddressRequest s.cfg.stk (wordAddress addr.toNat)) 2 (.loadAddress (wordAddress addr.toNat)) s
    else raiseFail .badInput (.addr24 addr) s
  | .blWriteBlock d => writeBlockSend d .writeBlock s
  | .blReadBlock => bootExchange (readPageRequest s.cfg.stk) 18 .readBlock s
  | .blProgram => programFrom 0 0 { s with seqIdx := 0 }
  | .blVerify => verifyFrom 0 { s with seqIdx := 0, seqMismatch := [] }

/-- A running operation up to its next read: MONITOR's next round (R300), a pass that begins again (log entry 11), or
nothing where it stands at a read. -/
def reopening (s : State) : State :=
  match s.opState with
  | .busy .monitorPause => monitorRound s
  | .busy (.passAgain (.program count)) => programFrom count s.seqIdx.toNat s
  | .busy (.passAgain .verify) => verifyFrom s.seqIdx.toNat s
  | _ => s

@[simp] theorem pump_raiseFail (c : ResultCode) (d : ResultData) (s : State) :
    pump (raiseFail c d s) = raiseFail c d s := pump_result c d s

/-- Every operation is its opening and then the events there are (R40). -/
theorem exec_eq_pump_opening (i : Instr) (s : State) : exec i s = .next (pump (opening i s)) := by
  cases i with
  | crcClr => simp only [exec, execCrcClr, opening, pump_result]
  | crcUpd b => simp only [exec, execCrcUpd, opening, pump_result]
  | frameTx f a c payload =>
    simp only [exec, execFrameTx, opening]
    split
    · rw [pump_raiseFail]
    · cases encodeFrame s.cfg ⟨a, c, replyFlag s.cfg f, payload⟩ <;> simp only [pump_raiseFail, pump_result]
  | enterDfu a => simp only [exec, execEnterDfu, opening, pump_result]
  | setAddress a text => cases h : parseUid text <;> simp only [exec, execSetAddress, opening, h, pump_raiseFail]
  | setParameter a id v =>
    cases h : paramWidth s.cfg id with
    | none => simp only [exec, execSetParameter, opening, h, pump_raiseFail]
    | some w =>
      by_cases hv : fitsWidth v w = true <;> simp [exec, execSetParameter, opening, h, hv]
  | getParameter a id =>
    cases h : paramWidth s.cfg id <;> simp only [exec, execGetParameter, opening, h, pump_raiseFail]
  | discover n =>
    by_cases h : s.cfg.discoverMax.toNat < n.toNat <;> simp [exec, execDiscover, opening, h]
  | monitor n =>
    by_cases h : s.cfg.discoverMax.toNat < n.toNat <;> simp [exec, execMonitor, opening, h]
  | blLoadAddress addr =>
    by_cases h : loadAddressOk addr.toNat = true <;> simp [exec, execBlLoadAddress, opening, h]
  | _ => rfl

/-- A running operation's step is its reopening and then the events there are (R40). -/
theorem resume_eq_pump_reopening (s : State) : resume s = pump (reopening s) := by
  cases h : s.opState with
  | idle => simp only [resume, reopening, h, pump_of_idle h]
  | busy p =>
    cases p with
    | passAgain k => cases k <;> simp only [resume, reopening, h]
    | _ => simp only [resume, reopening, h]

/-! ## Before its first read an operation does not depend on the events to come -/

theorem opening_setRx (r : List RxEvent) (i : Instr) (s : State) :
    opening i (setRx r s) = setRx r (opening i s) := by
  cases i with
  | crcClr => rfl
  | crcUpd b => rfl
  | frameTx f a c payload =>
    simp only [opening, setRx_cfg]
    split
    · rfl
    · cases encodeFrame s.cfg ⟨a, c, replyFlag s.cfg f, payload⟩ <;>
        simp [txWrites_eq, setRx, result_eq, raiseFail_eq]
  | frameRx => rfl
  | enterDfu a => simp [opening, sendRequest_eq, setRx, result_eq]
  | setAddress a text => cases h : parseUid text <;> simp [opening, h]
  | setParameter a id v =>
    cases h : paramWidth s.cfg id with
    | none => simp [opening, h]
    | some w => by_cases hv : fitsWidth v w = true <;> simp [opening, h, hv]
  | getParameter a id => cases h : paramWidth s.cfg id <;> simp [opening, h]
  | discover n =>
    by_cases h : s.cfg.discoverMax.toNat < n.toNat
    · simp [opening, h]
    · simp only [opening, setRx_cfg, h, if_false]
      exact scanFrom_setRx r n 1 _ (fin := discoverEnd) (fun _ => rfl) (scanStart s)
  | getAllParameters a => exact getAllFrom_setRx r a 0 { s with seqIdx := 0, seqResults := [] }
  | monitor n =>
    by_cases h : s.cfg.discoverMax.toNat < n.toNat
    · simp [opening, h]
    · simp only [opening, setRx_cfg, h, if_false]
      exact scanFrom_setRx r n 1 _ (fin := monitorScanEnd)
        (fun t => monitorPollFrom_setRx r _ (setTimeout .normal t)) (scanStart s)
  | blSync => exact syncTry_setRx r { s with blRetry := 0 }
  | blLoadAddress addr => by_cases h : loadAddressOk addr.toNat = true <;> simp [opening, h]
  | blWriteBlock d => exact writeBlockSend_setRx r d .writeBlock s
  | blProgram => exact programLoop_setRx r 0 _ 0 { s with seqIdx := 0 }
  | blVerify => exact verifyLoop_setRx r _ 0 { s with seqIdx := 0, seqMismatch := [] }
  | blGetVersion => exact bootExchange_setRx r _ 3 .versionMinor s
  | blReadBlock => exact bootExchange_setRx r _ 18 .readBlock s
  | ping a | getIdentity a | getAdcRaw a | getStatus a | shuntOn a | shuntOff a => exact exchange_setRx r a _ _ _ s

/-- An operation run with the events `r` there: its opening, and then those events. -/
theorem exec_setRx (i : Instr) (r : List RxEvent) (s : State) :
    exec i (setRx r s) = .next (drain r (setRx r (opening i s))) := by
  rw [exec_eq_pump_opening, opening_setRx]; rfl

/-- The events to come are what they were when one event has been dealt with. -/
theorem onEvent_rx (e : RxEvent) (s : State) : (onEvent e s).rx = s.rx := by
  have h := onEvent_setRx s.rx e s
  rw [show setRx s.rx s = s from rfl] at h
  rw [h, setRx_rx]

/-! ## Work that starts an operation -/

theorem quiet_acc {op : Byte} {v : Byte} {s : State} (h : mayWrite op .crcAcc = true) :
    Quiet op s { s with crcAcc := v } :=
  quiet_reg rfl rfl ⟨rfl, rfl, rfl, fun g hg => by cases g <;> simp_all [Register.same]⟩

theorem quiet_mismatches {op : Byte} {l : List Word32} {s : State} (h : mayWrite op .mismatch = true) :
    Quiet op s { s with seqMismatch := l } :=
  quiet_reg rfl rfl ⟨rfl, rfl, rfl, fun g hg => by cases g <;> simp_all [Register.same]⟩

theorem quiet_scanStart {op : Byte} {s : State} (hi : mayWrite op .index = true) (hp : mayWrite op .present = true)
    (ht : mayWrite op .timeout = true) : Quiet op s (scanStart s) :=
  quiet_trans
    (quiet_reg (t := { s with seqIdx := 0, seqPresent := [] }) rfl rfl
      ⟨rfl, rfl, rfl, fun g hg => by cases g <;> simp_all [Register.same]⟩)
    (quiet_timeout ht)

/-! ## What a step writes, reports and takes -/

theorem mayWrite_rxPort (p : Pos) (h : p.awaitsRx = true) : mayWrite p.opcode .rxPort = true := by
  cases p with
  | frameRx => decide
  | reply k => cases k <;> (simp only [Pos.opcode, ReplyPos.opcode]; decide)
  | readN want got k => cases k <;> (simp only [Pos.opcode, ReadPos.opcode]; decide)
  | monitorPause => cases h
  | passAgain k => cases h

/-- What an operation does before its first read is its own. -/
theorem advances_opening (i : Instr) (s : State) : Advances (opcodeOf i) s (opening i s) := by
  cases i with
  | crcClr => exact advances_after (quiet_acc (by decide)) (advances_result (by decide))
  | crcUpd b =>
    change Advances 0x01 s _
    exact advances_after (quiet_acc (by decide)) (advances_result (by decide))
  | frameTx f a c payload =>
    change Advances 0x03 s _
    simp only [opening]
    split
    · exact advances_result (c := .badInput) (by decide)
    · split
      · exact advances_after (quiet_tx _ _ _) (advances_result (by decide))
      · exact advances_result (c := .badInput) (by decide)
  | frameRx => exact advances_wait rfl
  | enterDfu a =>
    change Advances 0x12 s _
    exact advances_after (quiet_request (by decide)) (advances_result (by decide))
  | setAddress a text =>
    change Advances 0x14 s _
    simp only [opening]
    split
    · exact advances_result (c := .badInput) (by decide)
    · exact advances_exchange (by decide) rfl
  | setParameter a id v =>
    change Advances 0x19 s _
    simp only [opening]
    split
    · exact advances_result (c := .badInput) (by decide)
    · split
      · exact advances_exchange (by decide) rfl
      · exact advances_result (c := .badInput) (by decide)
  | getParameter a id =>
    change Advances 0x1A s _
    simp only [opening]
    split
    · exact advances_result (c := .badInput) (by decide)
    · exact advances_exchange (by decide) rfl
  | discover n =>
    change Advances 0x20 s _
    simp only [opening]
    split
    · exact advances_result (c := .badInput) (by decide)
    · exact advances_after (quiet_scanStart (by decide) (by decide) (by decide))
        (advances_scan (by decide) (by decide) rfl advances_discoverEnd)
  | getAllParameters a =>
    change Advances 0x21 s _
    exact advances_after (t := { s with seqIdx := 0, seqResults := [] })
      (quiet_trans (quiet_index (i := 0) (by decide)) (quiet_results (l := []) (by decide))) (advances_getAll a 0 _)
  | monitor n =>
    change Advances 0x22 s _
    simp only [opening]
    split
    · exact advances_result (c := .badInput) (by decide)
    · exact advances_after (quiet_scanStart (by decide) (by decide) (by decide))
        (advances_scan (by decide) (by decide) rfl advances_scanEnd)
  | blSync => exact advances_after (quiet_retry (by decide)) (advances_sync _)
  | blGetVersion => exact advances_boot rfl
  | blLoadAddress addr =>
    change Advances 0x32 s _
    simp only [opening]
    split
    · exact advances_boot rfl
    · exact advances_result (c := .badInput) (by decide)
  | blWriteBlock d =>
    change Advances 0x33 s _
    exact advances_writeBlock (by decide) (by decide) rfl
  | blReadBlock => exact advances_boot rfl
  | blProgram => exact advances_after (quiet_index (by decide)) (advances_program _ _ _ _)
  | blVerify =>
    exact advances_after (t := { s with seqIdx := 0, seqMismatch := [] })
      (quiet_trans (quiet_index (i := 0) (by decide)) (quiet_mismatches (l := []) (by decide))) (advances_verify _ _ _)
  | ping a | getIdentity a | getAdcRaw a | getStatus a | shuntOn a | shuntOff a => exact advances_exchange rfl rfl

/-- What a running operation does before its next read is its own. -/
theorem advances_reopening {s : State} {p : Pos} (h : s.opState = .busy p) : Advances p.opcode s (reopening s) := by
  cases p with
  | monitorPause => simp only [reopening, h]; exact advances_poll _ _
  | passAgain k =>
    cases k with
    | program count => simp only [reopening, h]; exact advances_program _ _ _ _
    | verify => simp only [reopening, h]; exact advances_verify _ _ _
  | _ => simp only [reopening, h]; exact advances_self h

/-- The events there are bring a waiting operation to its result, or to a wait of its own. -/
theorem advances_drain (l : List RxEvent) {s : State} {p : Pos} (h : s.opState = .busy p) (hr : s.rx = l) :
    Advances p.opcode s (drain l s) := by
  induction l generalizing s p with
  | nil => exact advances_self h
  | cons e rest ih =>
    cases hw : p.awaitsRx with
    | false =>
      rw [drain_of_not_awaits (by simp only [h, OpState.awaitsRx, hw])]
      exact advances_self h
    | true =>
      rw [drain_cons (by simp only [h, OpState.awaitsRx, hw])]
      refine advances_after (quiet_take (mayWrite_rxPort p hw) hr) ?_
      have hrx := onEvent_rx e (rxTake e rest s)
      obtain ⟨u, hu, ⟨c, d, hc, he⟩ | ⟨q, hq, he⟩⟩ :=
        advances_event (s := rxTake e rest s) (p := p) (e := e) h
      · rw [he, drain_result]
        exact ⟨u, hu, .inl ⟨c, d, hc, rfl⟩⟩
      · rw [he] at hrx ⊢
        have hd := ih (s := waitAt q u) rfl hrx
        rw [hq] at hd
        exact advances_after (quiet_trans hu (quiet_waitAt _ q u)) hd

/-- Work up to a result or a wait, and then the events there are. -/
theorem advances_pump {op : Byte} {s t : State} (h : Advances op s t) : Advances op s (pump t) := by
  obtain ⟨u, hu, ⟨c, d, hc, rfl⟩ | ⟨q, rfl, rfl⟩⟩ := h
  · rw [pump_result]
    exact ⟨u, hu, .inl ⟨c, d, hc, rfl⟩⟩
  · exact advances_after (quiet_trans hu (quiet_waitAt _ q u)) (advances_drain _ rfl rfl)

/-- An operation that is taken does its own work up to its result or a wait. -/
theorem advances_exec {i : Instr} {s t : State} (h : exec i s = .next t) : Advances (opcodeOf i) s t := by
  rw [exec_eq_pump_opening] at h
  cases h
  exact advances_pump (advances_opening i s)

/-- So does a running operation in a later step. -/
theorem advances_resume {p : Pos} {s : State} (h : s.opState = .busy p) : Advances p.opcode s (resume s) := by
  rw [resume_eq_pump_reopening]
  exact advances_pump (advances_reopening h)

/-! ## The kinds of step -/

/-- In IDLE a whole operation at the head of `HOST_IN` is taken and run (R40; log entry 1). -/
theorem step_instr {s : State} {i : Instr} {rest : List Byte} (hi : s.opState = .idle)
    (hd : decode s.hostIn = .instr i rest) : step s = exec i { s with hostIn := rest } := by
  simp only [step, stepOnce, takeOperation, hi, hd]

/-- In IDLE an illegal opcode is taken alone (R122). -/
theorem step_illegal {s : State} {op : Byte} {rest : List Byte} (hi : s.opState = .idle)
    (hd : decode s.hostIn = .illegal op rest) : step s = .next (badOp op { s with hostIn := rest }) := by
  simp only [step, stepOnce, takeOperation, hi, hd]

/-- In IDLE nothing happens while no whole operation is offered (log entry 1). -/
theorem step_incomplete {s : State} (hi : s.opState = .idle) (hd : decode s.hostIn = .incomplete) :
    step s = .next s := by
  simp only [step, stepOnce, takeOperation, hi, hd]

/-- What a step to a next state is (R40). -/
theorem step_cases {s t : State} (h : step s = .next t) :
    (∃ i rest, s.opState = .idle ∧ exec i { s with hostIn := rest } = .next t) ∨
    (∃ op rest, s.opState = .idle ∧ t = badOp op { s with hostIn := rest }) ∨
    (s.opState = .idle ∧ t = s) ∨
    ∃ p, s.opState = .busy p ∧ t = resume s := by
  obtain hi | ⟨p, hp⟩ : s.opState = .idle ∨ ∃ p, s.opState = .busy p := by cases s.opState <;> simp
  · cases hd : decode s.hostIn with
    | instr i rest => exact .inl ⟨i, rest, hi, step_instr hi hd ▸ h⟩
    | illegal op rest =>
      rw [step_illegal hi hd] at h
      cases h
      exact .inr (.inl ⟨op, rest, hi, rfl⟩)
    | incomplete =>
      rw [step_incomplete hi hd] at h
      cases h
      exact .inr (.inr (.inl ⟨hi, rfl⟩))
  · rw [step_busy hp] at h
    cases h
    exact .inr (.inr (.inr ⟨p, hp, rfl⟩))

/-- Work up to a result or a wait took the events of `RX` in their order, and added to what was done at the ports. -/
theorem Advances.events {op : Byte} {s t : State} (h : Advances op s t) :
    ∃ evs, t.portLog = s.portLog ++ evs ∧ s.rx = rxOf evs ++ t.rx := by
  obtain ⟨u, ⟨evs, hlog, -, hrx, -⟩, ⟨c, d, -, rfl⟩ | ⟨p, -, rfl⟩⟩ := h
  · exact ⟨evs ++ [.out (.result c d)], by simp [result_eq, hlog], by simpa [rxOf, result_eq] using hrx⟩
  · exact ⟨evs, hlog, hrx⟩

/-- Work up to a result or a wait takes nothing from `HOST_IN`. -/
theorem Advances.hostIn {op : Byte} {s t : State} (h : Advances op s t) : t.hostIn = s.hostIn := by
  obtain ⟨u, ⟨-, -, -, -, -, -, hin, -⟩, ⟨c, d, -, rfl⟩ | ⟨p, -, rfl⟩⟩ := h
  · exact hin
  · exact hin

/-- Work up to a result or a wait ends in IDLE or in a wait of the same operation. -/
theorem Advances.opState {op : Byte} {s t : State} (h : Advances op s t) :
    t.opState = .idle ∨ ∃ p, t.opState = .busy p ∧ p.opcode = op := by
  obtain ⟨u, -, ⟨c, d, -, rfl⟩ | ⟨p, hp, rfl⟩⟩ := h
  · exact .inl rfl
  · exact .inr ⟨p, rfl, hp⟩

/-- Every step takes the events of `RX` in their order, and adds to what was done at the ports (R32, R82). -/
theorem step_events {s t : State} (h : step s = .next t) :
    ∃ evs, t.portLog = s.portLog ++ evs ∧ s.rx = rxOf evs ++ t.rx := by
  obtain ⟨i, rest, -, he⟩ | ⟨op, rest, -, rfl⟩ | ⟨-, rfl⟩ | ⟨p, hp, rfl⟩ := step_cases h
  · exact (advances_exec he).events
  · exact ⟨[.out (.result .badOp (.byte op))], rfl, rfl⟩
  · exact ⟨[], by simp, rfl⟩
  · exact (advances_resume hp).events

/-- Going on with more events behind those left: what the first portion left unread is read first (R32). -/
theorem next_drain_more (l' : List RxEvent) (t : State) :
    Host.Outcome.next (drain (t.rx ++ l') (setRx (t.rx ++ l') t)) =
      (if t.opState.awaitsRx then step (setRx (t.rx ++ l') t) else .next (setRx (t.rx ++ l') t) :
        Host.Outcome State Fault Refusal) := by
  cases hw : t.opState.awaitsRx with
  | false => rw [drain_of_not_awaits (s := setRx (t.rx ++ l') t) hw]; rfl
  | true =>
    cases hs : t.opState with
    | idle => simp [hs, OpState.awaitsRx] at hw
    | busy p =>
      rw [if_pos rfl, step_awaits (s := setRx (t.rx ++ l') t) hs (by simpa [hs, OpState.awaitsRx] using hw)]
      rfl

end Sys2Proof.Machine

/-!
SUPPORT. Every step keeps the invariant of the block: an operation's opening from IDLE, a running operation's
reopening, and the events there are.
-/

namespace Sys2Proof.Machine

/-- In IDLE no decode attempt is under way and the timeout select is `NORMAL`, so an operation may start (R35, R38). -/
theorem ready_of_idle {s : State} (h : BlockInv s) (hi : s.opState = .idle) : Ready .normal s := by
  have ho := h.operation
  simp only [OperationOk, hi] at ho
  obtain ⟨hseek, htmo⟩ := ho
  exact ⟨registersOk_of h, hseek, htmo⟩

/-- An operation starts with its bytes taken from `HOST_IN`. -/
theorem ready_hostIn {tm : TimeoutSel} {s : State} (rest : List Byte) (h : Ready tm s) :
    Ready tm { s with hostIn := rest } :=
  ready_same h rfl rfl rfl rfl rfl rfl rfl rfl rfl rfl rfl rfl

/-- A scan starts with no node recorded (R290; log entry 9). -/
theorem ready_scanStart {s : State} (h : Ready .normal s) : Ready .discover (scanStart s) :=
  have cleared : RegistersOk { s with seqIdx := 0, seqPresent := [] } :=
    ⟨decoderOk_congr h.cor.decoder rfl rfl rfl rfl rfl rfl rfl, List.Pairwise.nil, by simp, h.cor.retryBound,
      h.cor.requestBound, h.cor.imageCanonical⟩
  ready_timeout .discover (s := { s with seqIdx := 0, seqPresent := [] }) ⟨cleared, h.seek, h.tmo⟩

/-- A request with a payload that fits `ses_req`, to a wait whose registers it sets (R230). -/
theorem blockInv_exchange {tm : TimeoutSel} {a c : Byte} {pl : List Byte} {k : ReplyPos} {s : State} (h : Ready tm s)
    (hl : pl.length ≤ 255) (ho : OperationOk (running (.reply k) (requested a c pl s))) :
    BlockInv (exchange a c pl k s) :=
  blockInv_of (registersOk_exchange h hl) (exchange_wait a c pl k s ▸ ho)

theorem leValue_length (v : Word16) (w : ParamWidth) : (leValue v w).length ≤ 2 := by
  cases w <;> simp [leValue]

/-- An operation that starts where the invariant holds reaches its result or its first read with the invariant. -/
theorem blockInv_opening (i : Instr) {s : State} (h : Ready .normal s) : BlockInv (opening i s) := by
  cases i with
  | crcClr => exact blockInv_result (ready_same h rfl rfl rfl rfl rfl rfl rfl rfl rfl rfl rfl rfl)
  | crcUpd b => exact blockInv_result (ready_same h rfl rfl rfl rfl rfl rfl rfl rfl rfl rfl rfl rfl)
  | frameTx f a c payload =>
    simp only [opening]
    split
    · exact blockInv_fail h
    · split
      · exact blockInv_result (ready_txWrites _ h)
      · exact blockInv_fail h
  | frameRx =>
    have same : Ready .normal (waitAt .frameRx s) := ready_same h rfl rfl rfl rfl rfl rfl rfl rfl rfl rfl rfl rfl
    exact blockInv_of same.cor ⟨same.tmo, trivial⟩
  | enterDfu a =>
    have sent : Ready .normal (sendRequest a 0x02 [] s) := by
      rw [sendRequest_eq]
      exact ⟨⟨decoderOk_congr h.cor.decoder rfl rfl rfl rfl rfl rfl rfl, h.cor.presentAscending, h.cor.presentNotZero,
        h.cor.retryBound, by simp, h.cor.imageCanonical⟩, h.seek, h.tmo⟩
    exact blockInv_result sent
  | setAddress a text =>
    simp only [opening]
    split
    · exact blockInv_fail h
    · exact blockInv_exchange h (by simp) ⟨h.tmo, rfl, rfl, rfl⟩
  | setParameter a id v =>
    simp only [opening]
    split
    · exact blockInv_fail h
    · rename_i w _
      have hw := leValue_length v w
      split
      · exact blockInv_exchange h (by simp only [List.length_cons]; omega) ⟨h.tmo, rfl, rfl, rfl⟩
      · exact blockInv_fail h
  | getParameter a id =>
    simp only [opening]
    split
    · exact blockInv_fail h
    · exact blockInv_exchange h (by simp) ⟨h.tmo, rfl, rfl, rfl⟩
  | discover n =>
    simp only [opening]
    split
    · exact blockInv_fail h
    · exact blockInv_scan (ready_scanStart h) (by omega) (by simp [scanStart]) (.inl rfl) blockInv_discoverEnd
  | getAllParameters a =>
    exact blockInv_getAll (ready_same h rfl rfl rfl rfl rfl rfl rfl rfl rfl rfl rfl rfl)
  | monitor n =>
    simp only [opening]
    split
    · exact blockInv_fail h
    · exact blockInv_scan (ready_scanStart h) (by omega) (by simp [scanStart]) (.inr rfl) blockInv_scanEnd
  | blSync =>
    have cleared : Ready .normal { s with blRetry := 0 } :=
      ⟨⟨decoderOk_congr h.cor.decoder rfl rfl rfl rfl rfl rfl rfl, h.cor.presentAscending, h.cor.presentNotZero,
        Nat.zero_le _, h.cor.requestBound, h.cor.imageCanonical⟩, h.seek, h.tmo⟩
    exact blockInv_sync cleared
  | blGetVersion => exact blockInv_boot h rfl (by omega)
  | blLoadAddress addr =>
    simp only [opening]
    split
    · exact blockInv_boot h rfl (by omega)
    · exact blockInv_fail h
  | blWriteBlock d => exact blockInv_writeBlock h rfl rfl
  | blReadBlock => exact blockInv_boot h rfl (by omega)
  | blProgram => exact blockInv_program (ready_index h)
  | blVerify => exact blockInv_verify (ready_same h rfl rfl rfl rfl rfl rfl rfl rfl rfl rfl rfl rfl)
  | ping a | getIdentity a | getAdcRaw a | getStatus a | shuntOn a | shuntOff a => exact blockInv_exchange h (by simp) ⟨h.tmo, rfl, rfl⟩

/-- A running operation reaches its result or its next read with the invariant. -/
theorem blockInv_reopening {s : State} (h : BlockInv s) : BlockInv (reopening s) := by
  have ho := h.operation
  cases hs : s.opState with
  | idle => simpa only [reopening, hs] using h
  | busy p =>
    simp only [OperationOk, hs] at ho
    cases p with
    | monitorPause =>
      obtain ⟨htmo, hseek⟩ := ho
      simp only [reopening, hs]
      exact blockInv_poll ⟨registersOk_of h, hseek, htmo⟩
    | passAgain k =>
      obtain ⟨htmo, hseek⟩ := ho
      have ready : Ready .normal s := ⟨registersOk_of h, hseek, htmo⟩
      cases k with
      | program count => simp only [reopening, hs]; exact blockInv_program ready
      | verify => simp only [reopening, hs]; exact blockInv_verify ready
    | frameRx => simpa only [reopening, hs] using h
    | reply k => simpa only [reopening, hs] using h
    | readN want got k => simpa only [reopening, hs] using h

theorem blockInv_take {s : State} (e : RxEvent) (rest : List RxEvent) (h : BlockInv s) :
    BlockInv (rxTake e rest s) :=
  ⟨decoderOk_congr h.decoder rfl rfl rfl rfl rfl rfl rfl, h.operation, h.presentAscending, h.presentNotZero,
    h.retryBound, h.requestBound, h.imageCanonical⟩

/-- The events there are keep the invariant, one after another. -/
theorem blockInv_drain (l : List RxEvent) {s : State} (h : BlockInv s) : BlockInv (drain l s) := by
  induction l generalizing s with
  | nil => exact h
  | cons e rest ih =>
    cases hw : s.opState.awaitsRx with
    | false => rwa [drain_of_not_awaits hw]
    | true =>
      rw [drain_cons hw]
      exact ih (blockInv_event (blockInv_take e rest h))

/-- An operation taken in IDLE keeps the invariant. -/
theorem blockInv_exec {i : Instr} {s t : State} (h : Ready .normal s) (he : exec i s = .next t) : BlockInv t := by
  rw [exec_eq_pump_opening] at he
  cases he
  exact blockInv_drain _ (blockInv_opening i h)

/-- A later step of a running operation keeps the invariant. -/
theorem blockInv_resume {s : State} (h : BlockInv s) : BlockInv (resume s) := by
  rw [resume_eq_pump_reopening]
  exact blockInv_drain _ (blockInv_reopening h)

/-- A step of any kind keeps the invariant of the block. -/
theorem blockInv_step {s t : State} (h : BlockInv s) (hstep : step s = .next t) : BlockInv t := by
  obtain ⟨i, rest, hi, he⟩ | ⟨op, rest, hi, rfl⟩ | ⟨-, rfl⟩ | ⟨p, -, rfl⟩ := step_cases hstep
  · exact blockInv_exec (ready_hostIn rest (ready_of_idle h hi)) he
  · exact blockInv_result (ready_hostIn rest (ready_of_idle h hi))
  · exact h
  · exact blockInv_resume h

end Sys2Proof.Machine

/-!
CLAIMS. The statements on the state and its steps (10_state.md, 70_reset_and_hazards.md).
-/

namespace Sys2Proof.Proofs

open Sys2Proof.Machine Sys2Proof.Claims

/-- Settles O56: in IDLE an operation opens where the invariant holds, a running one goes on from its position, and
every event taken keeps it. -/
theorem invariantKept : Obligations.InvariantKept := fun _ _ => blockInv_step

/-- Settles O59: the events of every part of a step are those taken, in their order. -/
theorem eventsTakenInOrder : Obligations.EventsTakenInOrder := by
  intro s t h
  obtain ⟨evs, hlog, hrx⟩ := step_events h
  have hnew : newEvents s t = evs := by simp [newEvents, hlog]
  exact ⟨⟨evs, hlog.symm⟩, hnew ▸ hrx⟩

/-- Settles O60: an operation is its opening, which reads no event, and then the events, which may be drained in two
portions. -/
theorem eventPortions : Obligations.EventPortions := by
  intro i l l' s
  refine ⟨drain l (setRx l (opening i s)), exec_setRx i l s, ?_⟩
  calc exec i (setRx (l ++ l') s)
      = .next (drain (l ++ l') (setRx (l ++ l') (opening i s))) := exec_setRx i (l ++ l') s
    _ = _ := by rw [drain_append]; exact next_drain_more l' _

/-- Settles O51: a running operation's step is work of that operation up to a result or a wait of its own. -/
theorem stepRunsOperation : Obligations.StepRunsOperation := by
  refine fun s => ⟨fun hi i rest => step_instr hi, step_incomplete, fun p hp => ?_⟩
  have work := advances_resume hp
  exact ⟨resume s, step_busy hp, work.hostIn, work.opState⟩

/-- The reset event gives every register its value of R50. -/
theorem afterReset_holdsResetValues (s : State) : HoldsResetValues s.afterReset :=
  ⟨rfl, rfl, rfl, rfl, rfl, rfl, rfl, rfl, rfl, rfl, rfl, rfl, rfl, rfl, rfl, rfl, rfl, rfl⟩

/-- Settles O54: the reset event writes the registers alone, and the state after reset is one it leaves. -/
theorem resetValues : Obligations.ResetValues :=
  ⟨fun s => ⟨afterReset_holdsResetValues s, rfl, rfl, rfl, rfl, rfl, rfl, rfl⟩,
    afterReset_holdsResetValues State.reset, rfl, rfl⟩

/-- After reset no decode attempt is under way and no operation runs, so the registers may stand at their reset values
(R50). -/
theorem registersOk_reset : RegistersOk State.reset where
  decoder := ⟨Nat.zero_le _, Nat.zero_le _, trivial⟩
  presentAscending := List.Pairwise.nil
  presentNotZero := fun _ hx => nomatch hx
  retryBound := Nat.zero_le _
  requestBound := Nat.zero_le _
  imageCanonical := rfl

/-- Settles O55. -/
theorem invariantAtReset : Obligations.InvariantAtReset := blockInv_of registersOk_reset ⟨rfl, rfl⟩

end Sys2Proof.Proofs

/-!
SUPPORT. What a value of two bytes is as a number, what a listed address of an image reads as, and what a part of an
operation that ends in a result or a wait has written.
-/

namespace Sys2Proof.Machine

/-- `le16` of two bytes as a number (R11). -/
theorem toNat_le16 (lo hi : Byte) : (le16 lo hi).toNat = lo.toNat + 256 * hi.toNat := by
  calc (le16 lo hi).toNat
      = hi.toNat <<< 8 ||| lo.toNat := BitVec.toNat_append hi lo
    _ = hi.toNat <<< 8 + lo.toNat := (Nat.shiftLeft_add_eq_or_of_lt lo.isLt _).symm
    _ = lo.toNat + 256 * hi.toNat := by rw [Nat.shiftLeft_eq]; omega

/-- In canonical form the byte read at an address is the byte listed there (R76): an address is listed at most once. -/
theorem read_eq_some_iff {m : Memory} {lo a : Nat} {x : Byte} (h : Memory.risesFrom lo m = true) :
    m.read a = some x ↔ (a, x) ∈ m := by
  induction m generalizing lo with
  | nil => simp
  | cons kc rest ih =>
    obtain ⟨k, c⟩ := kc
    simp only [Memory.risesFrom, Bool.and_eq_true] at h
    obtain ⟨-, hrest⟩ := h
    by_cases hk : k = a
    · subst hk
      have once : (k, x) ∉ rest := by
        rw [← ih hrest, read_below hrest (Nat.lt_succ_self k)]
        exact nofun
      simp [Memory.read, once, eq_comm]
    · simp [Memory.read, hk, Ne.symm hk, ih hrest]

/-- In canonical form an address that is not listed is ABSENT (R76). -/
theorem read_eq_none_iff {m : Memory} {a : Nat} (h : m.wf = true) : m.read a = none ↔ ∀ x, (a, x) ∉ m := by
  simp only [Option.eq_none_iff_forall_ne_some, ne_eq, read_eq_some_iff h]

/-- A byte of a window is read at its own address (R77). -/
theorem window_getElem (m : Memory) (b : Nat) (i : Fin 16) : (window m b)[i] = (m.read (b + i.val)).getD 0xFF := by
  simp [window]

/-- A result changes the operation's position and the output port alone. -/
theorem writesOnly_result (op : Byte) (c : ResultCode) (d : ResultData) (s : State) : WritesOnly op s (result c d s) :=
  ⟨rfl, rfl, rfl, fun g _ => by cases g <;> simp [Register.same, result_eq]⟩

theorem Quiet.writesOnly {op : Byte} {s t : State} (h : Quiet op s t) : WritesOnly op s t := by
  obtain ⟨-, -, -, -, hw⟩ := h
  exact hw

/-- Work up to a result or a wait writes what the operation may write. -/
theorem Advances.writesOnly {op : Byte} {s t : State} (h : Advances op s t) : WritesOnly op s t := by
  obtain ⟨u, work, ⟨c, d, -, rfl⟩ | ⟨p, -, rfl⟩⟩ := h
  · exact writesOnly_trans work.writesOnly (writesOnly_result op c d u)
  · exact writesOnly_trans work.writesOnly (quiet_waitAt op p u).writesOnly

end Sys2Proof.Machine

/-!
CLAIMS. The statements on values, the image and what an operation leaves alone (20_memory.md).
-/

namespace Sys2Proof.Proofs

open Sys2Proof.Machine Sys2Proof.Claims

/-- Settles O57: an operation's execution, and each later step of it, is its own work up to a result or a wait. -/
theorem operationWritesOnly : Obligations.OperationWritesOnly := by
  refine ⟨fun i s t h => (advances_exec h).writesOnly, fun p s t hp h => ?_⟩
  rw [step_busy hp] at h
  cases h
  exact (advances_resume hp).writesOnly

/-- Settles O43: in canonical form reading an address finds the byte listed there, or ABSENT where none is. -/
theorem windowFillsAbsent : Obligations.WindowFillsAbsent := by
  refine ⟨fun m b i hm => ⟨fun x hx => ?_, fun hx => ?_⟩, fun m a a' x => ⟨read_write_same m a x, ?_, write_wf x⟩⟩
  · rw [window_getElem, (read_eq_some_iff hm).2 hx, Option.getD_some]
  · rw [window_getElem, (read_eq_none_iff hm).2 hx, Option.getD_none]
  · exact read_write_other m x

/-- Settles O31: `sext_16` is the two's-complement value, negative from 0x8000 on. -/
theorem valuesAreLittleEndian : Obligations.ValuesAreLittleEndian := by
  refine fun lo hi v => ⟨toNat_le16 lo hi, lo8_le16 lo hi, hi8_le16 lo hi, le16_lo8_hi8 v, ?_⟩
  rw [sext16_eq, BitVec.toInt_eq_toNat_cond]
  split <;> split <;> omega

end Sys2Proof.Proofs

/-!
SUPPORT. What each operand format of 30_encoding.md R121 reads, as an equivalence, so that one case split over the
opcode table of R120 (`decode_eq_instr_iff`) serves decode of encode and encode of decode; which opcodes are R122's; and
the bytes of a word in the numbering of spec/opcode_table.json.
-/

namespace Sys2Proof

/-! ## The operand formats (R121) -/

/-- The bytes a one-byte length counts off are those of which it is the length. -/
theorem counted_iff {k : Byte} {r p rest : List Byte} :
    k.toNat ≤ r.length ∧ r.take k.toNat = p ∧ r.drop k.toNat = rest ↔
      p.length ≤ 255 ∧ k = BitVec.ofNat 8 p.length ∧ r = p ++ rest := by
  constructor
  · rintro ⟨hk, rfl, rfl⟩
    have hlen : (r.take k.toNat).length = k.toNat := List.length_take_of_le hk
    refine ⟨by omega, ?_, (List.take_append_drop _ _).symm⟩
    rw [hlen, BitVec.ofNat_toNat, BitVec.setWidth_eq]
  · rintro ⟨hp, rfl, rfl⟩
    rw [toNat_ofNat_length p hp]
    simp

theorem decode1_eq_instr_iff {f : Byte → Instr} {r rest : List Byte} {i : Instr} :
    decode1 f r = .instr i rest ↔ ∃ b, i = f b ∧ r = b :: rest := by
  match r with
  | [] => simp [decode1]
  | b :: r => simp [decode1, eq_comm]

theorem decode2_eq_instr_iff {f : Byte → Byte → Instr} {r rest : List Byte} {i : Instr} :
    decode2 f r = .instr i rest ↔ ∃ a b, i = f a b ∧ r = a :: b :: rest := by
  match r with
  | [] | [_] => simp [decode2]
  | a :: b :: r => simp [decode2, eq_comm]

theorem decodeHAPV_eq_instr_iff {f : Byte → Byte → Word16 → Instr} {r rest : List Byte} {i : Instr} :
    decodeHAPV f r = .instr i rest ↔ ∃ a b v, i = f a b v ∧ r = a :: b :: lo8 v :: hi8 v :: rest := by
  constructor
  · intro h
    match r with
    | [] | [_] | [_, _] | [_, _, _] => cases h
    | a :: b :: lo :: hi :: r =>
      cases h
      exact ⟨a, b, le16 lo hi, rfl, by rw [lo8_le16, hi8_le16]⟩
  · rintro ⟨a, b, v, rfl, rfl⟩
    simp [decodeHAPV]

theorem decodeHW_eq_instr_iff {f : BitVec 24 → Instr} {r rest : List Byte} {i : Instr} :
    decodeHW f r = .instr i rest ↔ ∃ v, i = f v ∧ r = byte24 v 0 :: byte24 v 1 :: byte24 v 2 :: rest := by
  constructor
  · intro h
    match r with
    | [] | [_] | [_, _] => cases h
    | a0 :: a1 :: a2 :: r =>
      cases h
      exact ⟨le24 a0 a1 a2, rfl, by rw [byte24_le24_low, byte24_le24_mid, byte24_le24_high]⟩
  · rintro ⟨v, rfl, rfl⟩
    simp [decodeHW]

theorem decodeHAT_eq_instr_iff {f : Byte → List Byte → Instr} {r rest : List Byte} {i : Instr} :
    decodeHAT f r = .instr i rest ↔
      ∃ a t, t.length ≤ 255 ∧ i = f a t ∧ r = a :: BitVec.ofNat 8 t.length :: (t ++ rest) := by
  constructor
  · intro h
    match r with
    | [] | [_] => cases h
    | a :: k :: r =>
      simp only [decodeHAT] at h
      split at h
      · next hk =>
        cases h
        obtain ⟨ht, hlen, hr⟩ := counted_iff.1 ⟨hk, rfl, rfl⟩
        exact ⟨a, _, ht, rfl, by rw [← hlen, ← hr]⟩
      · cases h
  · rintro ⟨a, t, ht, rfl, rfl⟩
    obtain ⟨hk, htake, hdrop⟩ := (counted_iff (rest := rest)).2 ⟨ht, rfl, rfl⟩
    simp only [decodeHAT, if_pos hk, htake, hdrop]

theorem decodeHF_eq_instr_iff {f : Byte → Byte → Byte → List Byte → Instr} {r rest : List Byte} {i : Instr} :
    decodeHF f r = .instr i rest ↔
      ∃ g a c p, p.length ≤ 255 ∧ i = f g a c p ∧ r = g :: a :: c :: BitVec.ofNat 8 p.length :: (p ++ rest) := by
  constructor
  · intro h
    match r with
    | [] | [_] | [_, _] | [_, _, _] => cases h
    | g :: a :: c :: l :: r =>
      simp only [decodeHF] at h
      split at h
      · next hl =>
        cases h
        obtain ⟨hp, hlen, hr⟩ := counted_iff.1 ⟨hl, rfl, rfl⟩
        exact ⟨g, a, c, _, hp, rfl, by rw [← hlen, ← hr]⟩
      · cases h
  · rintro ⟨g, a, c, p, hp, rfl, rfl⟩
    obtain ⟨hl, htake, hdrop⟩ := (counted_iff (rest := rest)).2 ⟨hp, rfl, rfl⟩
    simp only [decodeHF, if_pos hl, htake, hdrop]

theorem decodeHD_eq_instr_iff {f : Vector Byte 16 → Instr} {r rest : List Byte} {i : Instr} :
    decodeHD f r = .instr i rest ↔ ∃ d : Vector Byte 16, i = f d ∧ r = d.toList ++ rest := by
  constructor
  · intro h
    simp only [decodeHD] at h
    split at h
    · next hr =>
      cases h
      exact ⟨block16 r, rfl, by rw [block16_toList r hr, List.take_append_drop]⟩
    · cases h
  · rintro ⟨d, rfl, rfl⟩
    simp [decodeHD]

/-! ## The opcode table (R120, R122) -/

/-- A row of the table reads the operands of its own format: the operands of a well-formed operation, under its opcode,
are read as that operation. -/
theorem decodeOp_operandBytes {i : Instr} (rest : List Byte) (hw : WellFormed i = true) :
    decodeOp (opcodeOf i) (operandBytes i ++ rest) = .instr i rest := by
  cases i with
  | frameTx f a c p => exact decodeHF_eq_instr_iff.2 ⟨f, a, c, p, of_decide_eq_true hw, rfl, rfl⟩
  | setAddress a t => exact decodeHAT_eq_instr_iff.2 ⟨a, t, of_decide_eq_true hw, rfl, rfl⟩
  | setParameter a id v => exact decodeHAPV_eq_instr_iff.2 ⟨a, id, v, rfl, rfl⟩
  | blLoadAddress addr => exact decodeHW_eq_instr_iff.2 ⟨addr, rfl, rfl⟩
  | blWriteBlock d => exact decodeHD_eq_instr_iff.2 ⟨d, rfl, rfl⟩
  | getParameter a id => rfl
  | crcUpd a | ping a | enterDfu a | getIdentity a | getAdcRaw a | getStatus a | shuntOn a | shuntOff a | discover a
  | getAllParameters a | monitor a => rfl
  | crcClr | frameRx | blSync | blGetVersion | blReadBlock | blProgram | blVerify => rfl

/-- No row of the table reads anything else: one case per format, over the rows in the order of `decodeOp`. -/
theorem eq_encoding_of_decodeOp {op : Byte} {r rest : List Byte} {i : Instr} (h : decodeOp op r = .instr i rest) :
    op = opcodeOf i ∧ r = operandBytes i ++ rest ∧ WellFormed i = true := by
  unfold decodeOp at h
  split at h
  case h_3 hop =>
    obtain ⟨f, a, c, p, hp, rfl, rfl⟩ := decodeHF_eq_instr_iff.1 h
    exact ⟨BitVec.eq_of_toNat_eq hop, rfl, decide_eq_true hp⟩
  case h_8 hop =>
    obtain ⟨a, t, ht, rfl, rfl⟩ := decodeHAT_eq_instr_iff.1 h
    exact ⟨BitVec.eq_of_toNat_eq hop, rfl, decide_eq_true ht⟩
  case h_13 hop =>
    obtain ⟨a, id, v, rfl, rfl⟩ := decodeHAPV_eq_instr_iff.1 h
    exact ⟨BitVec.eq_of_toNat_eq hop, rfl, rfl⟩
  case h_14 hop =>
    obtain ⟨a, id, rfl, rfl⟩ := decode2_eq_instr_iff.1 h
    exact ⟨BitVec.eq_of_toNat_eq hop, rfl, rfl⟩
  case h_20 hop =>
    obtain ⟨addr, rfl, rfl⟩ := decodeHW_eq_instr_iff.1 h
    exact ⟨BitVec.eq_of_toNat_eq hop, rfl, rfl⟩
  case h_21 hop =>
    obtain ⟨d, rfl, rfl⟩ := decodeHD_eq_instr_iff.1 h
    exact ⟨BitVec.eq_of_toNat_eq hop, rfl, rfl⟩
  case h_2 hop | h_5 hop | h_6 hop | h_7 hop | h_9 hop | h_10 hop | h_11 hop | h_12 hop | h_15 hop | h_16 hop
      | h_17 hop =>
    obtain ⟨b, rfl, rfl⟩ := decode1_eq_instr_iff.1 h
    exact ⟨BitVec.eq_of_toNat_eq hop, rfl, rfl⟩
  case h_1 hop | h_4 hop | h_18 hop | h_19 hop | h_22 hop | h_23 hop | h_24 hop =>
    cases h
    exact ⟨BitVec.eq_of_toNat_eq hop, rfl, rfl⟩
  case h_25 => cases h

/-- The decoder reads exactly the encodings of well-formed operations. -/
theorem decode_eq_instr_iff {bytes rest : List Byte} {i : Instr} :
    decode bytes = .instr i rest ↔ bytes = encode i ++ rest ∧ WellFormed i = true := by
  constructor
  · intro h
    match bytes with
    | [] => cases h
    | op :: r =>
      obtain ⟨rfl, rfl, hw⟩ := eq_encoding_of_decodeOp h
      exact ⟨rfl, hw⟩
  · rintro ⟨rfl, hw⟩
    exact decodeOp_operandBytes rest hw

/-- An opcode in none of the table's rows is illegal: each row's opcode is outside the ranges of R122. -/
theorem decodeOp_illegal {op : Byte} (r : List Byte)
    (h : op.toNat = 0x02 ∨ (0x05 ≤ op.toNat ∧ op.toNat ≤ 0x10) ∨ (0x1B ≤ op.toNat ∧ op.toNat ≤ 0x1F) ∨
      (0x23 ≤ op.toNat ∧ op.toNat ≤ 0x2F) ∨ 0x37 ≤ op.toNat) : decodeOp op r = .illegal op r := by
  unfold decodeOp
  split
  case h_25 => rfl
  all_goals omega

/-! ## Words in the numbering of spec/opcode_table.json -/

/-- The bytes of a word, cut behind the first `a`. -/
theorem leBytes_add (a b w : Nat) : leBytes (a + b) w = leBytes a w ++ leBytes b (w / 256 ^ a) := by
  induction a generalizing w with
  | zero => simp [leBytes]
  | succ a ih =>
    have hcut : leBytes (a + b) (w / 256) = leBytes a (w / 256) ++ leBytes b (w / 256 ^ (a + 1)) := by
      rw [ih, Nat.div_div_eq_div_mul, ← Nat.pow_succ']
    rw [Nat.succ_add, leBytes, leBytes, hcut, List.cons_append]

/-- A word whose low bytes are an operation's encoding decodes to that operation. -/
theorem decodeTableWord_of_encode {nbits w : Nat} {i : Instr} (hw : WellFormed i = true)
    (hlen : (encode i).length ≤ longestInstr) (h : leBytes (encode i).length (w % 2 ^ nbits) = encode i) :
    decodeTableWord nbits w = some i := by
  have hbytes : tableBytes nbits w = encode i ++ leBytes (longestInstr - (encode i).length)
      (w % 2 ^ nbits / 256 ^ (encode i).length) := by
    rw [tableBytes, ← Nat.add_sub_cancel' hlen, leBytes_add, h, Nat.add_sub_cancel_left]
  rw [decodeTableWord, decode_eq_instr_iff.2 ⟨hbytes, hw⟩]

/-- A word whose low byte is an illegal opcode decodes to no operation (R122). -/
theorem decodeTableWord_of_illegal {nbits w : Nat} {op : Byte} {r : List Byte} (h : tableBytes nbits w = op :: r)
    (hop : decodeOp op r = .illegal op r) : decodeTableWord nbits w = none := by
  rw [decodeTableWord, h, decode, hop]

end Sys2Proof

/-!
CLAIMS. The statements on the host-port encoding and the bootloader's request bytes (30_encoding.md, 20_memory.md R73).
-/

namespace Sys2Proof.Proofs

open Sys2Proof.Machine Sys2Proof.Claims

/-- Settles O47. -/
theorem decodeEncode : Obligations.DecodeEncode := fun _ _ hw => decode_eq_instr_iff.2 ⟨rfl, hw⟩

/-- Settles O48. -/
theorem encodeDecode : Obligations.EncodeDecode := fun _ _ _ => decode_eq_instr_iff.1

/-- Settles O49: the decoder answers illegal, and the step that takes the byte ends with its record alone. -/
theorem illegalOpcodes : Obligations.IllegalOpcodes := by
  intro op rest s hi hin hop
  have hd : decode s.hostIn = .illegal op rest := by rw [hin]; exact decodeOp_illegal rest hop
  rw [step_illegal hi hd, badOp, result_eq, ended]

/-- Settles O42: the terminator has its one value, and either byte order is one branch of its request. -/
theorem bootRequestBytes : Obligations.BootRequestBytes := by
  refine fun c w d => ⟨rfl, rfl, rfl, ?_, ?_, ?_, ?_⟩
  · cases h : c.addressLowFirst <;> simp [loadAddressRequest, h]
  · rfl
  · rw [readPageRequest, List.append_assoc]; rfl
  · rintro rfl
    exact ⟨rfl, rfl, rfl, rfl, rfl, rfl, rfl, rfl, rfl, rfl⟩

/-- Settles O50: each word's low bytes are the encoding of its operation, and 02 is illegal. -/
theorem specWordsDecode : Obligations.SpecWordsDecode :=
  ⟨decodeTableWord_of_encode rfl (by decide) rfl, decodeTableWord_of_encode rfl (by decide) rfl,
    decodeTableWord_of_encode rfl (by decide) rfl, decodeTableWord_of_encode rfl (by decide) rfl,
    decodeTableWord_of_encode rfl (by decide) rfl, decodeTableWord_of_encode rfl (by decide) rfl,
    decodeTableWord_of_illegal (op := 0x02) rfl (decodeOp_illegal _ (.inl rfl))⟩

end Sys2Proof.Proofs

/-!
SUPPORT. The CRC step as a linear map with kernel zero, a feed as one-to-one in its accumulator, and the two host
operations on the CRC unit (40_crc8.md R153 to R157).
-/

namespace Sys2Proof.Machine

open Sys2Proof.Claims

/-! ## The step (R157) -/

/-- The part of a shift that R152 branches on: the polynomial, where the high bit was set. -/
theorem crcShift_eq (c : Config) (a : Byte) :
    crcShift c a = (a <<< 1) ^^^ if a.getLsbD 7 then c.crcPoly.val else 0 := by
  unfold crcShift
  split
  · rfl
  · exact BitVec.xor_zero.symm

/-- One shift is linear: the polynomial is added twice, and so not at all, where both high bits are set. -/
theorem crcShift_linear (c : Config) (a b : Byte) : crcShift c (a ^^^ b) = crcShift c a ^^^ crcShift c b := by
  have hpoly : (if (a ^^^ b).getLsbD 7 then c.crcPoly.val else 0) =
      (if a.getLsbD 7 then c.crcPoly.val else 0) ^^^ (if b.getLsbD 7 then c.crcPoly.val else 0) := by
    rw [BitVec.getLsbD_xor]
    cases a.getLsbD 7 <;> cases b.getLsbD 7 <;> simp
  rw [crcShift_eq, crcShift_eq, crcShift_eq, hpoly, BitVec.shiftLeft_xor_distrib]
  ac_rfl

theorem crcShift_zero (c : Config) : crcShift c 0 = 0 := by simp [crcShift]

theorem crc8Step_linear (c : Config) (a b : Byte) : crc8Step c 0 (a ^^^ b) = crc8Step c 0 a ^^^ crc8Step c 0 b := by
  simp only [crc8Step, BitVec.ofNat_eq_ofNat, BitVec.zero_xor, crcShift_linear]

/-- Equal arguments, and no others, give zero: R155's last step, and R156's first. -/
theorem crc8Step_eq_zero_iff {c : Config} {a b : Byte} : crc8Step c a b = 0 ↔ a = b := by
  have hself : crc8Step c b b = 0 := by simp only [crc8Step, BitVec.xor_self, ← BitVec.ofNat_eq_ofNat, crcShift_zero]
  constructor
  · intro h
    exact (BitVec.xor_left_inj _).1 (crc8Step_xor_injective (h.trans hself.symm))
  · rintro rfl
    exact hself

/-! ## Sequences (R151) -/

theorem crc8_concat (c : Config) (l : List Byte) (k : Byte) : crc8 c (l ++ [k]) = crc8Step c (crc8 c l) k :=
  crc8_append c l [k]

/-- Each later step maps a nonzero difference to a nonzero difference (R157). -/
theorem crcFeed_injective {c : Config} {a a' : Byte} {l : List Byte} (h : crcFeed c a l = crcFeed c a' l) : a = a' := by
  induction l generalizing a a' with
  | nil => exact h
  | cons b l ih => exact (BitVec.xor_left_inj _).1 (crc8Step_xor_injective (ih h))

/-! ## The worked values (R152, R154) -/

/-- The polynomial has its one value in every parameter set, so a step computed in one holds in all. -/
theorem crc8Step_of_fixture {a b v : Byte} (c : Config) (h : crc8Step Config.fixture a b = v) : crc8Step c a b = v := h

theorem crc8Step_worked (c : Config) : crc8Step c 0x00 0x80 = 0x89 := crc8Step_of_fixture c (by decide)

/-- The accumulators of R154's example, one step each. -/
theorem crc8_worked (c : Config) : crc8 c [0x00, 0x01, 0x02, 0x03, 0x04] = 0xE3 := by
  have h0 : crc8Step c 0x00 0x00 = 0x00 := crc8Step_eq_zero_iff.2 rfl
  have h1 : crc8Step c 0x00 0x01 = 0x07 := crc8Step_of_fixture c (by decide)
  have h2 : crc8Step c 0x07 0x02 = 0x1B := crc8Step_of_fixture c (by decide)
  have h3 : crc8Step c 0x1B 0x03 = 0x48 := crc8Step_of_fixture c (by decide)
  have h4 : crc8Step c 0x48 0x04 = 0xE3 := crc8Step_of_fixture c (by decide)
  simp only [crc8, Fixed.val, crcFeed_cons, crcFeed_nil, h0, h1, h2, h3, h4]

/-! ## The host operations (R153, R154) -/

theorem exec_crcClr (s : State) : exec .crcClr s = .next (ended .ok (.byte 0) { s with crcAcc := 0 }) := rfl

theorem exec_crcUpd (b : Byte) (s : State) :
    exec (.crcUpd b) s =
      .next (ended .ok (.byte (crc8Step s.cfg s.crcAcc b)) { s with crcAcc := crc8Step s.cfg s.crcAcc b }) := rfl

/-- CRC_UPD over a sequence feeds it to the accumulator. -/
theorem execAll_crcUpd (bs : List Byte) (s : State) :
    ∃ t, execAll (bs.map .crcUpd) s = .next t ∧ t.crcAcc = crcFeed s.cfg s.crcAcc bs := by
  induction bs generalizing s with
  | nil => exact ⟨s, rfl, rfl⟩
  | cons b bs ih => exact ih _

end Sys2Proof.Machine

/-!
CLAIMS. The statements on the CRC unit (40_crc8.md).
-/

namespace Sys2Proof.Proofs

open Sys2Proof.Machine Sys2Proof.Claims

/-- Settles O1. -/
theorem crcStepLinearOneToOne : Obligations.CrcStepLinearOneToOne :=
  fun cfg a b _ _ => ⟨crc8Step_xor cfg a b, crc8Step_linear cfg a b, crc8Step_xor_injective⟩

/-- Settles O2. -/
theorem crcClearSetsZero : Obligations.CrcClearSetsZero := exec_crcClr

/-- Settles O3: CRC_CLR leaves the start value of R151, to which the CRC_UPDs feed the sequence. -/
theorem crcUpdateAccumulates : Obligations.CrcUpdateAccumulates := by
  refine ⟨exec_crcUpd, fun bs s => ?_, fun cfg => ⟨crc8Step_worked cfg, crc8_worked cfg⟩⟩
  exact execAll_crcUpd bs (ended .ok (.byte 0) { s with crcAcc := 0 })

/-- Settles O4: a step gives zero exactly on equal arguments, at the end of a sequence as at its head. -/
theorem crcSelfCheckAndLeadingZero : Obligations.CrcSelfCheckAndLeadingZero := by
  intro cfg bs k
  have hhead : crc8Step cfg 0 0 = 0 := crc8Step_eq_zero_iff.2 rfl
  refine ⟨?_, ?_, ?_, rfl⟩
  · rw [crc8_concat]
    exact crc8Step_eq_zero_iff.2 rfl
  · rw [crc8_concat]
    exact crc8Step_eq_zero_iff.trans eq_comm
  · exact congrArg (crcFeed cfg · bs) hhead

/-- Settles O5: the bytes in front leave one accumulator, the differing bytes make it two, and those behind keep
the two apart. -/
theorem crcDetectsOneByteError : Obligations.CrcDetectsOneByteError := by
  intro cfg before after x y hxy h
  rw [crc8_append, crc8_append _ (before ++ [y]), crc8_concat, crc8_concat] at h
  have hstep : crc8Step cfg (crc8 cfg before) x = crc8Step cfg (crc8 cfg before) y := crcFeed_injective h
  exact hxy ((BitVec.xor_right_inj _).1 (crc8Step_xor_injective hstep))

end Sys2Proof.Proofs

/-!
SUPPORT. The framer (41_frame_encoder.md R170 to R173): which packets have a frame and its bytes, the flag bits of the
operand of FRAME_TX, and its three outcomes, one lemma each.
-/

namespace Sys2Proof.Machine

open Sys2Proof.Claims

/-! ## The frame (R170, R173) -/

theorem encodeFrame_eq_none {c : Config} {p : Packet} (h : 255 < p.payload.length) : encodeFrame c p = none :=
  if_neg (Nat.not_le.2 h)

theorem encodeFrame_eq_some_iff {c : Config} {p : Packet} {bytes : List Byte} :
    encodeFrame c p = some bytes ↔ p.payload.length ≤ 255 ∧ bytes = frameBytes c p := by
  rcases Nat.lt_or_ge 255 p.payload.length with hlong | hfits
  · simp [encodeFrame_eq_none hlong, Nat.not_le.2 hlong]
  · simp [encodeFrame_eq hfits, hfits, eq_comm]

/-- The frame in the literal layout of R100. -/
theorem frameBytes_eq_framed (c : Config) (p : Packet) :
    frameBytes c p = framed (if p.isReply then 0x80 else 0x00) p.address p.command p.payload
      (crc8 c (bodyBytes (if p.isReply then 0x80 else 0x00) p.address p.command p.payload)) := rfl

/-! ## The flags operand (30_encoding.md R101) -/

theorem reservedFlags_eq_zero_iff (f : Byte) : reservedFlags f = 0 ↔ f &&& 0x7F = 0x00 := by
  have hlow : (f &&& 0x7F).toNat = (reservedFlags f).toNat := by
    simp [reservedFlags, Nat.and_two_pow_sub_one_eq_mod f.toNat 7]
  rw [← BitVec.toNat_inj, ← BitVec.toNat_inj, hlow]
  rfl

/-- The mask of R101 selects bit 7, so the flag is that bit. -/
theorem replyFlag_eq_bit (c : Config) (f : Byte) : replyFlag c f = f.getLsbD 7 := by
  have hmask : f &&& 0x80 = if f.getLsbD 7 then 0x80 else 0 := BitVec.and_twoPow f 7
  simp only [replyFlag, Fixed.val, hmask]
  cases f.getLsbD 7 <;> rfl

/-! ## FRAME_TX (R172, R173) -/

theorem exec_frameTx_reserved {f : Byte} (a c : Byte) (pl : List Byte) (s : State) (hf : f &&& 0x7F ≠ 0x00) :
    exec (.frameTx f a c pl) s = .next (ended .badInput (.byte f) s) :=
  congrArg Host.Outcome.next (if_pos ((reservedFlags_eq_zero_iff f).not.2 hf))

/-- With no reserved flag bit, FRAME_TX asks the framer for the frame. -/
theorem exec_frameTx_unreserved {f : Byte} (a c : Byte) (pl : List Byte) (s : State) (hf : f &&& 0x7F = 0x00) :
    exec (.frameTx f a c pl) s = .next (
      (encodeFrame s.cfg ⟨a, c, f.getLsbD 7, pl⟩).elim (ended .badInput (.bytes pl) s)
        fun bytes => ended .ok (.count bytes.length) { s with portLog := s.portLog ++ bytes.map .tx }) := by
  have hres : ¬ reservedFlags f ≠ 0 := not_not.2 ((reservedFlags_eq_zero_iff f).2 hf)
  simp only [exec, execFrameTx, if_neg hres, replyFlag_eq_bit]
  cases encodeFrame s.cfg ⟨a, c, f.getLsbD 7, pl⟩ with
  | none => rfl
  | some bytes => simp [txWrites_eq, result_eq, ended]

end Sys2Proof.Machine

/-!
CLAIMS. The statements on the frame encoder (41_frame_encoder.md).
-/

namespace Sys2Proof.Proofs

open Sys2Proof.Machine Sys2Proof.Claims

/-- Settles O10: a packet that has a frame has a payload the deframer's buffer holds, so the drain over the frame's
bytes hands the packet to FRAME_RX, which ends and takes nothing more. -/
theorem frameRoundTrip : Obligations.FrameRoundTrip := by
  intro p bytes rest s henc hstate hrx
  obtain ⟨hfits, rfl⟩ := encodeFrame_eq_some_iff.1 henc
  have hframe : drain s.rx (waitAt .frameRx s) =
      drain rest (decoded .frameRx (.pkt p) (received p rest (waitAt .frameRx s))) := by
    rw [hrx]
    exact drain_frameBytes rfl rest p (waitAt .frameRx s) rfl hstate hfits
  rw [exec_frameRx, hframe, decoded_frameRx_pkt, drain_ended]
  rfl

/-- Settles O6: the bound decides whether there is a frame, and `framed` is the layout of R100. -/
theorem encodeLayout : Obligations.EncodeLayout := by
  intro cfg p
  refine ⟨fun hfits => ⟨?_, frameBytes_length cfg p, encodeFrame_eq hfits⟩, encodeFrame_eq_none⟩
  rw [encodeFrame_eq hfits, frameBytes_eq_framed]
  rfl

/-- Settles O7: with no reserved flag bit, a payload of at most 255 bytes has a frame. -/
theorem frameTxOutcome : Obligations.FrameTxOutcome := by
  intro f a c pl s hfits
  split
  case isTrue hf => exact exec_frameTx_reserved a c pl s hf
  case isFalse hf =>
    rw [exec_frameTx_unreserved a c pl s (not_not.1 hf), encodeFrame_eq hfits, Option.elim_some, frameBytes_length]

/-- Settles O8: a longer payload has no frame. -/
theorem oversizedPayloadRefused : Obligations.OversizedPayloadRefused := by
  intro f a c pl s hlong hf
  rw [exec_frameTx_unreserved a c pl s hf, encodeFrame_eq_none hlong, Option.elim_none]

end Sys2Proof.Proofs

/-!
SUPPORT. The deframer behind garbage (42_frame_decoder.md R192), FRAME_RX on what a whole frame gives (R195, R196,
R204), and the frames that a change of one byte behind the sync byte leaves (R208).
-/

namespace Sys2Proof.Machine

open Sys2Proof.Claims

/-! ## Garbage, and a frame behind it (R192, R205) -/

/-- An operation that decodes goes on behind the garbage as if it had not been there. -/
theorem pump_garbage {p : Pos} (hp : p.decodes = true) {garbage : List Byte} {rest : List RxEvent} {s : State}
    (ho : s.opState = .busy p) (hx : s.rxState = .seekPreamble) (hg : ∀ b ∈ garbage, b ≠ 0x55)
    (hr : s.rx = garbage.map .byte ++ rest) :
    pump s = pump { s with rx := rest, portLog := s.portLog ++ garbage.map fun b => .rx (.byte b) } :=
  calc pump s
      = drain (garbage.map .byte ++ rest) (setRx (garbage.map .byte ++ rest) s) := by rw [← hr]; rfl
    _ = _ := drain_garbage hp rest garbage s ho hx hg

theorem rawFrame_eq (n : Nat) (f a c : Byte) (pl : List Byte) (k : Byte) :
    rawFrame n f a c (BitVec.ofNat 8 pl.length) pl k =
      List.replicate (n + 1) 0x55 ++ [0xF0] ++ bodyBytes f a c pl ++ [k] := by
  simp [rawFrame, bodyBytes]

/-- Garbage and a frame at a decoding position: the operation gets the frame's output, and every byte is taken. -/
theorem pump_garbage_frame {p : Pos} (hp : p.decodes = true) {garbage : List Byte} {n : Nat} {f a c : Byte}
    {pl : List Byte} {k : Byte} {rest : List RxEvent} {s : State} (ho : s.opState = .busy p)
    (hx : s.rxState = .seekPreamble) (hg : ∀ b ∈ garbage, b ≠ 0x55) (hl : pl.length ≤ 255)
    (hr : s.rx = (garbage ++ rawFrame n f a c (BitVec.ofNat 8 pl.length) pl k).map .byte ++ rest) :
    pump s = drain rest (decoded p (frameOut s.cfg f a c (BitVec.ofNat 8 pl.length) pl k)
      (tookFrame #v[f, a, c, BitVec.ofNat 8 pl.length] pl
        (garbage ++ rawFrame n f a c (BitVec.ofNat 8 pl.length) pl k) rest s)) := by
  rw [List.map_append, List.append_assoc] at hr
  rw [pump_garbage hp ho hx hg hr, pump]
  dsimp only
  rw [drain_frame hp rest n f a c _ pl k _ (by exact ho) (.inl (by exact hx)) (toNat_ofNat_length pl hl).symm]
  simp [tookFrame]

/-- FRAME_RX ends on a frame's output: the CRC byte decides, and bit 7 of the flags is the reply flag (R195, R196,
R204). -/
theorem drain_frameRx_frameOut (rest : List RxEvent) (cfg : Config) (f a c : Byte) (pl : List Byte) (k : Byte)
    (s : State) :
    drain rest (decoded .frameRx (frameOut cfg f a c (BitVec.ofNat 8 pl.length) pl k) s) =
      (if k = crc8 cfg (bodyBytes f a c pl) then ended .ok (.packet ⟨a, c, f.getLsbD 7, pl⟩)
        else ended .noPacket (.reason .crc)) s := by
  have hout : frameOut cfg f a c (BitVec.ofNat 8 pl.length) pl k =
      if k = crc8 cfg (bodyBytes f a c pl) then .pkt ⟨a, c, f.getLsbD 7, pl⟩ else .np .crc := by
    rw [← replyFlag_eq_bit cfg]
    rfl
  rw [hout]
  by_cases hk : k = crc8 cfg (bodyBytes f a c pl)
  · rw [if_pos hk, if_pos hk, decoded_frameRx_pkt, drain_ended]
  · rw [if_neg hk, if_neg hk, decoded_frameRx_np, drain_ended]

/-! ## A frame with one byte changed (R208) -/

/-- Bytes as many as the length byte among them says are a header, a payload and a CRC byte. -/
theorem exists_body_of_length {w : List Byte} {n : Nat} (hlen : w.length = 5 + n)
    (hcount : w[3]? = some (BitVec.ofNat 8 n)) :
    ∃ f a c pl k, pl.length = n ∧ w = bodyBytes f a c pl ++ [k] := by
  match w with
  | f :: a :: c :: l :: tail =>
    rcases List.eq_nil_or_concat tail with rfl | ⟨pl, k, rfl⟩
    · simp at hlen
      omega
    · have hpl : pl.length = n := by simp at hlen; omega
      have hl : l = BitVec.ofNat 8 n := by simpa using hcount
      exact ⟨f, a, c, pl, k, hpl, by simp [bodyBytes, hl, hpl]⟩
  | [] | [_] | [_, _] | [_, _, _] => simp at hcount

theorem crc8_set_ne (cfg : Config) {w : List Byte} {i : Nat} {b : Byte} (hi : i < w.length) (hne : w[i] ≠ b) :
    crc8 cfg (w.set i b) ≠ crc8 cfg w := by
  have hw : w = w.take i ++ [w[i]] ++ w.drop (i + 1) := by simp
  have hset : w.set i b = w.take i ++ [b] ++ w.drop (i + 1) := by simp [List.set_eq_take_append_cons_drop, hi]
  intro h
  rw [hset] at h
  exact Proofs.crcDetectsOneByteError cfg _ _ b w[i] hne.symm (h.trans (congrArg (crc8 cfg) hw))

/-- What the sync byte is followed by in the frame of a packet: the body and its CRC. -/
def behindSync (cfg : Config) (p : Packet) : List Byte := frameBody cfg p ++ [crc8 cfg (frameBody cfg p)]

theorem frameBytes_eq_behindSync (cfg : Config) (p : Packet) :
    frameBytes cfg p = [0x55, 0x55, 0x55, 0x55, 0xF0] ++ behindSync cfg p := rfl

theorem behindSync_length (cfg : Config) (p : Packet) : (behindSync cfg p).length = 5 + p.payload.length := by
  simp [behindSync, frameBody]
  omega

/-- The length byte stands, so the changed bytes are still a frame; and the CRC over all of them, zero in the frame
(R155), is not zero in the changed one (R157), so its CRC byte is wrong. -/
theorem frameBytes_set_eq_framed {cfg : Config} {p : Packet} {j : Nat} {b : Byte} (hsync : 5 ≤ j)
    (hj : j < (frameBytes cfg p).length) (hcount : j ≠ 8) (hne : (frameBytes cfg p).getD j 0 ≠ b) :
    ∃ f a c pl k, pl.length = p.payload.length ∧ k ≠ crc8 cfg (bodyBytes f a c pl) ∧
      (frameBytes cfg p).set j b = framed f a c pl k := by
  obtain ⟨i, rfl⟩ := Nat.exists_eq_add_of_le hsync
  have hi : i < (behindSync cfg p).length := by
    simp only [frameBytes_length, behindSync_length] at hj ⊢
    omega
  have hbyte : (frameBytes cfg p).getD (5 + i) 0 = (behindSync cfg p)[i] := by
    rw [frameBytes_eq_behindSync, List.getD_append_right _ _ _ _ (by simp)]
    simp [hi]
  have hcount' : ((behindSync cfg p).set i b)[3]? = some (BitVec.ofNat 8 p.payload.length) := by
    rw [List.getElem?_set_ne (by omega)]
    rfl
  obtain ⟨f, a, c, pl, k, hpl, hset⟩ :=
    exists_body_of_length (by rw [List.length_set, behindSync_length]) hcount'
  refine ⟨f, a, c, pl, k, hpl, fun hk => ?_, ?_⟩
  · have hzero : crc8 cfg (behindSync cfg p) = 0 :=
      (Proofs.crcSelfCheckAndLeadingZero cfg (frameBody cfg p) 0).1
    have hzero' : crc8 cfg ((behindSync cfg p).set i b) = 0 := by
      rw [hset, hk]
      exact (Proofs.crcSelfCheckAndLeadingZero cfg (bodyBytes f a c pl) 0).1
    exact crc8_set_ne cfg hi (hbyte ▸ hne) (hzero'.trans hzero.symm)
  · rw [frameBytes_eq_behindSync, List.set_append_right _ _ (by simp)]
    simp [hset, framed]

end Sys2Proof.Machine

/-!
CLAIMS. The statements on the frame decoder (42_frame_decoder.md).
-/

namespace Sys2Proof.Proofs

open Sys2Proof.Machine Sys2Proof.Claims

/-- Settles O9: the garbage is skipped, the drain over the frame hands its output to FRAME_RX, and FRAME_RX ends. -/
theorem frameRxDecodesFrame : Obligations.FrameRxDecodesFrame := by
  intro garbage n f a c pl k rest s hx hg hl bytes hbytes hr
  have hraw : bytes = garbage ++ rawFrame n f a c (BitVec.ofNat 8 pl.length) pl k := by
    simp [hbytes, rawFrame_eq]
  subst hraw
  have hpump : pump (waitAt .frameRx s) = drain rest (decoded .frameRx
      (frameOut s.cfg f a c (BitVec.ofNat 8 pl.length) pl k)
      (tookFrame #v[f, a, c, BitVec.ofNat 8 pl.length] pl _ rest (waitAt .frameRx s))) :=
    pump_garbage_frame rfl rfl hx hg hl hr
  rw [drain_frameRx_frameOut] at hpump
  by_cases hk : k = crc8 s.cfg (bodyBytes f a c pl)
  · rw [if_pos hk] at hpump ⊢
    exact congrArg Host.Outcome.next hpump
  · rw [if_neg hk] at hpump ⊢
    exact congrArg Host.Outcome.next hpump

/-- Settles O11: the changed bytes are a frame whose CRC byte is wrong. -/
theorem oneByteErrorIsDiscarded : Obligations.OneByteErrorIsDiscarded := by
  intro p bytes j b rest s henc hsync hj hcount hne hx hr
  obtain ⟨hfits, rfl⟩ := encodeFrame_eq_some_iff.1 henc
  obtain ⟨f, a, c, pl, k, hpl, hk, hset⟩ := frameBytes_set_eq_framed hsync hj hcount hne
  rw [hset] at hr ⊢
  have hexec := frameRxDecodesFrame [] 3 f a c pl k rest s hx (by simp) (hpl ▸ hfits) (framed f a c pl k) rfl hr
  rw [if_neg hk] at hexec
  refine ⟨_, hexec, rfl, rfl, rfl, ?_⟩
  simp [newEvents, ended, tookFrame]

/-- Settles O12: the decoder's output at a `TMO` depends on its state alone, and FRAME_RX ends with it. -/
theorem timeoutEndsDecodeAttempt : Obligations.TimeoutEndsDecodeAttempt := by
  intro rest s ho hr
  rw [step_awaits ho rfl, pump, hr, drain_timeout rfl rest s ho, decoded_frameRx_np, drain_ended]
  rfl

/-- Settles O13: the decoder gives `NP(FRAMING)` at the byte, and FRAME_RX ends with it. -/
theorem framingErrorConsumesByte : Obligations.FramingErrorConsumesByte := by
  intro n b rest s hx h5 hf hr
  have hpump := pump_framing (p := .frameRx) rfl n b rest (waitAt .frameRx s) rfl hx h5 hf hr
  rw [decoded_frameRx_np, drain_ended] at hpump
  exact congrArg Host.Outcome.next hpump

/-- Settles O14: FRAME_RX and `WaitReply()` are the positions that decode. -/
theorem garbageIsSkipped : Obligations.GarbageIsSkipped := by
  intro garbage rest s ho hx hg hr
  obtain ⟨p, hp, hdecodes, hawaits⟩ : ∃ p, s.opState = .busy p ∧ p.decodes = true ∧ p.awaitsRx = true := by
    rcases ho with ho | ⟨k, ho⟩
    · exact ⟨.frameRx, ho, rfl, rfl⟩
    · exact ⟨.reply k, ho, rfl, rfl⟩
  rw [step_awaits hp hawaits, pump_garbage hdecodes hp hx hg hr]
  exact (step_awaits (by exact hp) hawaits).symm

/-- Settles O15: the first attempt leaves the decoder in `SEEK_PREAMBLE` in front of the second frame. -/
theorem framesBackToBack : Obligations.FramesBackToBack := by
  intro p q rest s hp hq hx hr
  rw [List.map_append, List.append_assoc] at hr
  have hfirst := frameRoundTrip p _ _ s (encodeFrame_eq hp) (.inl hx) hr
  have hsecond := frameRoundTrip q _ rest
    (ended .ok (.packet p) (received p ((frameBytes s.cfg q).map .byte ++ rest) s)) (encodeFrame_eq hq) (.inl rfl) rfl
  simp only [execAll, hfirst, hsecond]

end Sys2Proof.Proofs

/-!
SUPPORT. The request-reply matcher on each thing a read may bring (43_command_protocol.md R231 to R234), and the
commands as one exchange each: the request, the answer, and the result the answer gives (R230, R240 to R249).
-/

namespace Sys2Proof.Machine

open Sys2Proof.Claims

/-! ## One step of a waiting exchange (R231 to R234) -/

/-- An exchange that waits goes on with the events there are. -/
theorem step_reply {k : ReplyPos} {s : State} (ho : s.opState = .busy (.reply k)) : step s = .next (pump s) :=
  step_awaits ho rfl

/-- With no event to read the wait is left as it is (log entry 2). -/
theorem step_reply_rx_nil {k : ReplyPos} {s : State} (ho : s.opState = .busy (.reply k)) (hr : s.rx = []) :
    step s = .next s := by
  rw [step_reply ho, pump, hr, drain_nil]

/-- The wait goes on: two waits that come to the same with the events there are take the same step. -/
theorem step_reply_congr {k : ReplyPos} {s t : State} (hs : s.opState = .busy (.reply k))
    (ht : t.opState = .busy (.reply k)) (h : pump s = pump t) : step s = step t := by
  rw [step_reply hs, step_reply ht, h]

theorem waitReply_pkt_of_not_matches {k : ReplyPos} {q : Packet} {s : State}
    (h : ¬ (q.address = s.sesAddr ∧ q.command = s.sesCmd ∧ q.isReply = true)) : waitReply k (.pkt q) s = s :=
  if_neg (by simpa [matchesReply, and_assoc] using h)

theorem waitReply_crc_of_not_ends {k : ReplyPos} {s : State} (h : s.cfg.crcEndsWait = false) :
    waitReply k (.np .crc) s = s :=
  if_neg (by simp [h])

/-- A whole frame with a wrong CRC byte is taken, and the wait gets `NP(CRC)` (R195, R233). -/
theorem pump_reply_wrongCrc {k : ReplyPos} {f x y : Byte} {q : List Byte} {crc : Byte} {rest : List RxEvent} {s : State}
    (ho : s.opState = .busy (.reply k)) (hx : s.rxState = .seekPreamble) (hq : q.length ≤ 255)
    (hcrc : crc ≠ crc8 s.cfg (bodyBytes f x y q)) (hr : s.rx = (framed f x y q crc).map .byte ++ rest) :
    pump s = drain rest (waitReply k (.np .crc)
      (tookFrame #v[f, x, y, BitVec.ofNat 8 q.length] q (framed f x y q crc) rest s)) := by
  have hout : frameOut s.cfg f x y (BitVec.ofNat 8 q.length) q crc = .np .crc := if_neg hcrc
  rw [pump, hr, framed_raw, drain_frame rfl rest 3 f x y _ q crc s ho (.inl hx) (by simp; omega), hout]
  rfl

/-- A `TMO` gives NOREPLY, whether bytes of a frame were taken before it or not (R193, R231). -/
theorem pump_reply_timeout {k : ReplyPos} {rest : List RxEvent} {s : State} (ho : s.opState = .busy (.reply k))
    (hr : s.rx = .tmo :: rest) : pump s = drain rest (replyDone k none (timedOut rest s)) := by
  rw [pump, hr, drain_timeout rfl rest s ho]
  split <;> rfl

/-! ## The end of a command -/

/-- A command ends with its result when its wait does; only a sequence may go on to a further exchange. -/
theorem replyDone_command {k : ReplyPos} {a : Byte} (hk : commandTarget k = some a) (r : Option Packet) (s : State) :
    ∃ code data, replyDone k r s = ended code data s := by
  cases k with
  | discover | getAll | monitorScan | monitorPoll => cases hk
  | getStatus => simp only [replyDone, statusDone]; split <;> exact ⟨_, _, rfl⟩
  | ping | shuntOn | shuntOff => cases r <;> exact ⟨_, _, rfl⟩
  | getIdentity | setAddress | getAdcRaw | setParameter | getParameter =>
    cases r with
    | none => exact ⟨_, _, rfl⟩
    | some p =>
      simp only [replyDone, identityDone, setAddressDone, adcDone, setParameterDone, getParameterDone]
      split <;> exact ⟨_, _, rfl⟩

theorem drain_replyDone_command {k : ReplyPos} {a : Byte} (hk : commandTarget k = some a) (l : List RxEvent)
    (r : Option Packet) (s : State) : drain l (replyDone k r s) = replyDone k r s := by
  obtain ⟨code, data, h⟩ := replyDone_command hk r s
  rw [h, drain_ended]

/-- Without a reply every command reports `NO_RESPONSE` and its address (R240 to R249). -/
theorem replyDone_none {k : ReplyPos} {a : Byte} (hk : commandTarget k = some a) (s : State) :
    replyDone k none s = ended .noResponse (.byte a) s := by
  cases k <;> cases hk <;> rfl

/-! ## A command as one exchange (R230) -/

theorem fitsWidth_iff {v : Word16} {w : ParamWidth} : fitsWidth v w = true ↔ (w = .one → v.toNat ≤ 0xFF) := by
  cases w <;> simp [fitsWidth]

/-- A value that fits the parameter's width is sent, low byte first (R248). -/
theorem opening_setParameter {id : Byte} {v : Word16} {w : ParamWidth} {s : State} (a : Byte)
    (hw : paramWidth s.cfg id = some w) (hv : w = .one → v.toNat ≤ 0xFF) :
    opening (.setParameter a id v) s =
      exchange a 0x09 (id :: leValue v w) (.setParameter a id v (id :: leValue v w)) s := by
  simp only [opening, hw, if_pos (fitsWidth_iff.2 hv)]

theorem opening_setAddress {text : List Byte} {uid : Vector Byte 4} (a : Byte) (s : State) (h : parseUid text = some uid) :
    opening (.setAddress a text) s = exchange a 0x04 uid.toList (.setAddress a uid) s := by
  simp only [opening, h]

theorem opening_getParameter {id : Byte} {w : ParamWidth} {s : State} (a : Byte) (hw : paramWidth s.cfg id = some w) :
    opening (.getParameter a id) s = exchange a 0x0A [id] (.getParameter a id w) s := by
  simp only [opening, hw]

/-- A command whose operands are accepted opens with its request and waits for the reply (R235). -/
theorem opening_of_requestOf {i : Instr} {s : State} {a c : Byte} {pl : List Byte}
    (h : requestOf s.cfg i = some (a, c, pl)) :
    ∃ k, k.opcode = opcodeOf i ∧ commandTarget k = some a ∧ opening i s = exchange a c pl k s := by
  cases i <;> simp only [requestOf, reduceCtorEq] at h
  case ping | getIdentity | getAdcRaw | getStatus | shuntOn | shuntOff => cases h; exact ⟨_, rfl, rfl, rfl⟩
  case setAddress a' text =>
    obtain ⟨uid, huid, heq⟩ := Option.map_eq_some_iff.1 h
    cases heq
    exact ⟨.setAddress a uid, rfl, rfl, opening_setAddress a s huid⟩
  case setParameter a' id v =>
    split at h
    case h_1 hw =>
      split at h
      case isTrue hv =>
        cases h
        exact ⟨.setParameter a id v [id, lo8 v], rfl, rfl, opening_setParameter (w := .one) a hw fun _ => hv⟩
      case isFalse => cases h
    case h_2 hw =>
      cases h
      exact ⟨.setParameter a id v [id, lo8 v, hi8 v], rfl, rfl, opening_setParameter (w := .two) a hw nofun⟩
    case h_3 => cases h
  case getParameter a' id =>
    obtain ⟨w, hw, heq⟩ := Option.map_eq_some_iff.1 h
    cases heq
    exact ⟨.getParameter a id w, rfl, rfl, opening_getParameter a hw⟩

section
variable {i : Instr} {k : ReplyPos} {a c : Byte} {pl : List Byte} {rest : List RxEvent} {s : State}
  (hk : commandTarget k = some a) (hi : opening i s = exchange a c pl k s) (hx : s.rxState = .seekPreamble)
include hk hi hx

/-- A request and whatever ends its wait: the command's result (R231, R233). -/
theorem exec_answered {ans : Answer} (hf : AnswerFits s.cfg ans) (hr : s.rx = answerEvents s.cfg a c ans ++ rest) :
    exec i s = .next (replyDone k (ans.payload.map fun q => ⟨a, c, true, q⟩)
      (answered a c ans rest (requested a c pl s))) := by
  rw [exec_eq_pump_opening, hi, pump_request hf hx hr, drain_replyDone_command hk]

theorem exec_replied {q : List Byte} (hq : q.length ≤ 255) (hr : s.rx = answerEvents s.cfg a c (.reply q) ++ rest) :
    exec i s = .next (replyDone k (some ⟨a, c, true, q⟩) (answered a c (.reply q) rest (requested a c pl s))) :=
  exec_answered hk hi hx (ans := .reply q) hq hr

theorem exec_unanswered {ans : Answer} (hf : AnswerFits s.cfg ans) (hnone : ans.payload = none)
    (hr : s.rx = answerEvents s.cfg a c ans ++ rest) :
    exec i s = .next (ended .noResponse (.byte a) (answered a c ans rest (requested a c pl s))) := by
  rw [exec_answered hk hi hx hf hr, hnone]
  exact congrArg Host.Outcome.next (replyDone_none hk _)

end

/-! ## Reply payloads (R242, R244, R245, R249) -/

theorem identityOf_eq_none {q : List Byte} (cfg : Config) (a : Byte) (h : q.length ≠ 8) : identityOf cfg a q = none := by
  unfold identityOf
  split
  · exact absurd rfl h
  · rfl

theorem adcOf_eq_none {q : List Byte} (h : q.length ≠ 6) : adcOf q = none := by
  unfold adcOf
  split
  · exact absurd rfl h
  · rfl

theorem statusOf_eq_none {q : List Byte} (cfg : Config) (h : q.length ≠ 5) : statusOf cfg q = none := by
  unfold statusOf
  split
  · exact absurd rfl h
  · rfl

/-- The pattern on the payload is R249's test of its length and of its first byte. -/
theorem paramValue_eq_paramReading (id : Byte) (w : ParamWidth) (q : List Byte) :
    paramValue id w q = paramReading id w q := by
  unfold paramValue paramReading
  split
  case h_1 i lo => simp [widthBytes]
  case h_2 i lo hi => simp [widthBytes]
  case h_3 hone htwo =>
    refine (if_neg fun ⟨hlen, hid⟩ => ?_).symm
    cases w with
    | one =>
      obtain ⟨i, lo, rfl⟩ := List.length_eq_two.1 hlen
      exact hone i lo rfl rfl
    | two =>
      obtain ⟨i, lo, hi, rfl⟩ := List.length_eq_three.1 hlen
      exact htwo i lo hi rfl rfl

section
variable {p : Packet} (a : Byte) (s : State)

theorem replyDone_getIdentity_badReply (h : p.payload.length ≠ 8) :
    replyDone (.getIdentity a) (some p) s = ended .badReply (.bytes p.payload) s := by
  simp only [replyDone, identityDone, identityOf_eq_none s.cfg a h]
  rfl

theorem replyDone_getAdcRaw_badReply (h : p.payload.length ≠ 6) :
    replyDone (.getAdcRaw a) (some p) s = ended .badReply (.bytes p.payload) s := by
  simp only [replyDone, adcDone, adcOf_eq_none h]
  rfl

theorem replyDone_getStatus_badReply (h : p.payload.length ≠ 5) :
    replyDone (.getStatus a) (some p) s = ended .badReply (.bytes p.payload) s := by
  simp only [replyDone, statusDone, statusOutcome, statusOf_eq_none s.cfg h]
  rfl

theorem replyDone_getStatus_ok {q0 q1 q2 q3 q4 : Byte} (h : p.payload = [q0, q1, q2, q3, q4]) :
    replyDone (.getStatus a) (some p) s =
      ended .ok (.status ⟨le16 q0 q1, (le16 q2 q3).toInt, shuntReport s.cfg q4⟩) s := by
  simp only [replyDone, statusDone, statusOutcome, statusOf, h, sext16_eq]
  rfl

end

end Sys2Proof.Machine

/-!
SUPPORT. The helper functions of the commands: the UID text as a format (43_command_protocol.md R250), and the name tables
as searches for the entry with a given key (R251 to R253).
-/

namespace Sys2Proof.Machine

open Sys2Proof.Claims

/-! ## UID text (R250) -/

theorem hexDigit_eq_some_iff {c x : Byte} : hexDigit c = some x ↔ HexValue c x.toNat := by
  unfold hexDigit HexValue
  split_ifs <;> simp only [Option.some.injEq, false_iff] <;> bv_omega

theorem hexValue_lt {c : Byte} {n : Nat} (h : HexValue c n) : n < 16 := by
  unfold HexValue at h
  omega

theorem hexDigit_of_hexValue {c : Byte} {n : Nat} (h : HexValue c n) : hexDigit c = some (BitVec.ofNat 8 n) := by
  have hn := hexValue_lt h
  rw [hexDigit_eq_some_iff, BitVec.toNat_ofNat, Nat.mod_eq_of_lt (by omega)]
  exact h

/-- Two digits give the byte that is 16 times the first plus the second; it fits, so nothing is lost. -/
theorem hexPair_eq_some_iff {h l b : Byte} :
    hexPair h l = some b ↔ ∃ x y, HexValue h x ∧ HexValue l y ∧ b.toNat = x * 16 + y := by
  constructor
  · intro hb
    unfold hexPair at hb
    split at hb
    case h_1 u v hu hv =>
      cases hb
      rw [hexDigit_eq_some_iff] at hu hv
      have hu' := hexValue_lt hu
      have hv' := hexValue_lt hv
      exact ⟨u.toNat, v.toNat, hu, hv, by bv_omega⟩
    case h_2 => cases hb
  · rintro ⟨x, y, hx, hy, hb⟩
    have hx' := hexValue_lt hx
    have hy' := hexValue_lt hy
    simp only [hexPair, hexDigit_of_hexValue hx, hexDigit_of_hexValue hy]
    congr 1
    bv_omega

theorem vector4_eq_iff {a b c d : Byte} {v : Vector Byte 4} :
    #v[a, b, c, d] = v ↔ a = v[0] ∧ b = v[1] ∧ c = v[2] ∧ d = v[3] := by
  constructor
  · rintro rfl
    exact ⟨rfl, rfl, rfl, rfl⟩
  · rintro ⟨rfl, rfl, rfl, rfl⟩
    ext i hi
    match i with
    | 0 | 1 | 2 | 3 => rfl

/-- A text of eleven characters: hyphens, and four groups that are bytes. -/
theorem parseUid_groups {a0 a1 h1 b0 b1 h2 c0 c1 h3 d0 d1 : Byte} {uid : Vector Byte 4} :
    parseUid [a0, a1, h1, b0, b1, h2, c0, c1, h3, d0, d1] = some uid ↔
      (h1 = 0x2D ∧ h2 = 0x2D ∧ h3 = 0x2D) ∧
        hexPair a0 a1 = some uid[0] ∧ hexPair b0 b1 = some uid[1] ∧ hexPair c0 c1 = some uid[2] ∧
          hexPair d0 d1 = some uid[3] := by
  simp only [parseUid]
  split
  case isFalse hsep => exact iff_of_false nofun fun h => hsep h.1
  case isTrue hsep =>
    split
    case h_1 a b c d ha hb hc hd =>
      simp only [ha, hb, hc, hd, Option.some.injEq, vector4_eq_iff, and_iff_right hsep]
    case h_2 hnone => exact iff_of_false nofun fun ⟨_, ha, hb, hc, hd⟩ => hnone _ _ _ _ ha hb hc hd

theorem parseUid_eq_none {text : List Byte} (h : text.length ≠ 11) : parseUid text = none := by
  unfold parseUid
  split
  · exact absurd rfl h
  · rfl

/-! ## Tables (R251 to R253) -/

/-- Where keys are distinct, searching an entry's key finds that entry. -/
theorem find?_key_of_nodup {α β : Type} [DecidableEq β] {key : α → β} {l : List α} {e : α} (hd : (l.map key).Nodup)
    (he : e ∈ l) : l.find? (fun x => key x = key e) = some e := by
  obtain ⟨e', hfind⟩ : ∃ e', l.find? (fun x => key x = key e) = some e' :=
    Option.isSome_iff_exists.1 (List.find?_isSome.2 ⟨e, he, decide_eq_true rfl⟩)
  have hkey : key e' = key e := by simpa using List.find?_some hfind
  rw [hfind, List.inj_on_of_nodup_map hd (List.mem_of_find?_eq_some hfind) he hkey]

theorem shuntLookup_eq_find? (x : Byte) (l : List (Byte × ShuntState)) :
    shuntLookup x l = (l.find? fun p => p.1 = x).map Prod.snd := by
  induction l with
  | nil => rfl
  | cons p l ih => by_cases h : p.1 = x <;> simp [shuntLookup, h, ih]

theorem widthLookup_eq_find? (id : Byte) (l : List ParamDescriptor) :
    widthLookup id l = (l.find? fun d => d.id = id).map ParamDescriptor.width := by
  induction l with
  | nil => rfl
  | cons d l ih => by_cases h : d.id = id <;> simp [widthLookup, h, ih]

section
variable {cfg : Config} {x : Byte}

theorem shuntReport_of_mem {p : Byte × ShuntState} (hd : (cfg.shuntStates.map Prod.fst).Nodup) (hp : p ∈ cfg.shuntStates)
    (hx : p.1 = x) : shuntReport cfg x = .known p.2 := by
  subst hx
  simp [shuntReport, shuntLookup_eq_find?, find?_key_of_nodup hd hp]

theorem shuntReport_of_unmapped (h : ∀ p ∈ cfg.shuntStates, p.1 ≠ x) : shuntReport cfg x = .unknown x := by
  have hnone : cfg.shuntStates.find? (fun p => p.1 = x) = none := by simpa using h
  simp [shuntReport, shuntLookup_eq_find?, hnone]

theorem paramWidth_of_mem {d : ParamDescriptor} (hd : (cfg.registry.map ParamDescriptor.id).Nodup)
    (hmem : d ∈ cfg.registry) (hx : d.id = x) : paramWidth cfg x = some d.width := by
  subst hx
  simp [paramWidth, widthLookup_eq_find?, find?_key_of_nodup hd hmem]

theorem paramWidth_of_unregistered (h : ∀ d ∈ cfg.registry, d.id ≠ x) : paramWidth cfg x = none := by
  simpa [paramWidth, widthLookup_eq_find?] using h

end

end Sys2Proof.Machine

/-!
CLAIMS. The statements on the exchange and the matcher, and on the commands (43_command_protocol.md).
-/

namespace Sys2Proof.Proofs

open Sys2Proof.Machine Sys2Proof.Claims

/-- Settles O16: the opening of such a command is its exchange, and what follows are the events there are, as in a later
step of the wait. -/
theorem requestThenWait : Obligations.RequestThenWait := by
  intro i s a c pl hreq
  obtain ⟨k, hop, -, hopen⟩ := opening_of_requestOf hreq
  have hexec : exec i s = step (running (.reply k) (requested a c pl s)) := by
    rw [exec_eq_pump_opening, hopen, exchange_wait, step_reply rfl]
  exact ⟨k, hop, hexec, fun hr => hexec.trans (step_reply_rx_nil rfl hr)⟩

/-- Settles O17: the drain over the frame hands the packet to the matcher, which drops it. -/
theorem noiseIsIgnored : Obligations.NoiseIsIgnored := by
  intro k q rest s ho hx hq hne hr
  refine step_reply_congr ho (by exact ho) ?_
  rw [pump, hr, drain_frameBytes (p := .reply k) rfl rest q s ho (.inl hx) hq]
  exact congrArg (drain rest) (waitReply_pkt_of_not_matches (s := received q rest s) hne)

/-- Settles O18: the matcher drops `NP(FRAMING)`. -/
theorem framingErrorKeepsWait : Obligations.FramingErrorKeepsWait := by
  intro k n b rest s ho hx h5 hf hr
  exact step_reply_congr ho (by exact ho) (pump_framing (p := .reply k) rfl n b rest s ho hx h5 hf hr)

/-- Settles O19: the frame is an answer under `CRC_ENDS_WAIT`; else the matcher drops `NP(CRC)`. -/
theorem crcErrorDuringWait : Obligations.CrcErrorDuringWait := by
  rintro f x y q crc rest s hq hcrc hx _ rfl hr
  refine ⟨fun hends i a c pl hreq => ?_, fun hgoes k ho => ?_⟩
  · obtain ⟨k, -, hk, hopen⟩ := opening_of_requestOf hreq
    exact exec_unanswered (ans := .discarded f x y q crc) hk hopen hx ⟨hends, hq, hcrc⟩ rfl hr
  · refine step_reply_congr ho (by exact ho) ?_
    rw [pump_reply_wrongCrc ho hx hq hcrc hr]
    exact congrArg (drain rest) (waitReply_crc_of_not_ends hgoes)

/-- Settles O20: the matcher treats `NP(SHORT)` and `NP(TIMEOUT)` alike. -/
theorem timeoutEndsReplyWait : Obligations.TimeoutEndsReplyWait := by
  intro k rest s ho hr
  refine ⟨fun a hk => ?_, ?_⟩
  · rw [step_reply ho, pump_reply_timeout ho hr, drain_replyDone_command hk, replyDone_none hk]
  · refine step_reply_congr ho (by exact ho) ?_
    calc pump s
        = drain rest (replyDone k none (timedOut rest s)) := pump_reply_timeout ho hr
      _ = _ := (pump_reply_timeout (s := { s with rxState := .seekPreamble }) ho hr).symm

/-- Settles O21: a reply of any payload is an `OK`. -/
theorem pingOutcome : Obligations.PingOutcome := by
  intro a ans rest s hf hx hr
  rw [exec_answered (k := .ping a) rfl rfl hx hf hr]
  cases ans.payload <;> rfl

/-- Settles O22: as PING, whatever the reply's payload. -/
theorem shuntOutcomes : Obligations.ShuntOutcomes := by
  refine fun a ans rest s hf hx => ⟨fun hr => ?_, fun hr => ?_⟩
  · rw [exec_answered (k := .shuntOn a) rfl rfl hx hf hr]
    cases ans.payload <;> rfl
  · rw [exec_answered (k := .shuntOff a) rfl rfl hx hf hr]
    cases ans.payload <;> rfl

/-- Settles O23: the request is all that ENTER_DFU does before its result. -/
theorem enterDfuSendsOnly : Obligations.EnterDfuSendsOnly := by
  intro a s
  rw [exec_eq_pump_opening, opening, pump_result, sendRequest_eq]
  rfl

/-- Settles O24: the payload's length decides. -/
theorem identityOutcome : Obligations.IdentityOutcome := by
  refine fun a rest s hx => ⟨fun u0 u1 u2 u3 bt v0 v1 v2 hr => ?_, fun q hq hlen hr => ?_, fun ans hf hnone hr => ?_⟩
  · rw [exec_replied (k := .getIdentity a) rfl rfl hx (by simp) hr]
    rfl
  · rw [exec_replied (k := .getIdentity a) rfl rfl hx hq hr,
      replyDone_getIdentity_badReply a _ hlen]
  · exact exec_unanswered (k := .getIdentity a) rfl rfl hx hf hnone hr

/-- Settles O25: a text that is no UID is refused before the request. -/
theorem setAddressOutcome : Obligations.SetAddressOutcome := by
  refine fun a text s => ⟨fun hbad => ?_, fun uid ans rest huid hf hx hr => ?_⟩
  · simp only [exec, execSetAddress, hbad]
    rfl
  · rw [exec_answered (k := .setAddress a uid) rfl (opening_setAddress a s huid) hx hf hr]
    cases ans.payload with
    | none => rfl
    | some q =>
      simp only [Option.map_some, replyDone, setAddressDone]
      split <;> rfl

/-- Settles O26: eleven characters are three hyphens and four groups, and a group is a byte if both digits are. -/
theorem uidTextFormat : Obligations.UidTextFormat := by
  intro text uid
  by_cases hlen : text.length = 11
  · match text, hlen with
    | [a0, a1, h1, b0, b1, h2, c0, c1, h3, d0, d1], _ =>
      simp [parseUid_groups, hexPair_eq_some_iff, Fin.forall_fin_succ, and_assoc]
  · rw [parseUid_eq_none hlen]
    exact iff_of_false nofun fun h => hlen h.1

/-- Settles O27: the payload's length decides. -/
theorem adcOutcome : Obligations.AdcOutcome := by
  refine fun a rest s hx => ⟨fun q0 q1 q2 q3 q4 q5 hr => ?_, fun q hq hlen hr => ?_, fun ans hf hnone hr => ?_⟩
  · rw [exec_replied (k := .getAdcRaw a) rfl rfl hx (by simp) hr]
    rfl
  · rw [exec_replied (k := .getAdcRaw a) rfl rfl hx hq hr,
      replyDone_getAdcRaw_badReply a _ hlen]
  · exact exec_unanswered (k := .getAdcRaw a) rfl rfl hx hf hnone hr

/-- Settles O28: the payload's length decides, and `sext_16` is the two's-complement value. -/
theorem statusOutcome : Obligations.StatusOutcome := by
  refine fun a rest s hx => ⟨fun q0 q1 q2 q3 q4 hr => ?_, fun q hq hlen hr => ?_, fun ans hf hnone hr => ?_⟩
  · rw [exec_replied (k := .getStatus a) rfl rfl hx (by simp) hr,
      replyDone_getStatus_ok a _ rfl, answered_cfg, requested_cfg]
  · rw [exec_replied (k := .getStatus a) rfl rfl hx hq hr,
      replyDone_getStatus_badReply a _ hlen]
  · exact exec_unanswered (k := .getStatus a) rfl rfl hx hf hnone hr

/-- Settles O29: the id and the value's width are checked before the request. -/
theorem setParameterOutcome : Obligations.SetParameterOutcome := by
  refine fun a id v s => ⟨fun hno => ?_, fun hone hwide => ?_, fun w pl ans rest hw hv hpl hf hx hr => ?_⟩
  · simp only [exec, execSetParameter, hno]
    rfl
  · have hunfit : ¬ fitsWidth v .one = true := fun h => absurd (fitsWidth_iff.1 h rfl) (Nat.not_le.2 hwide)
    simp only [exec, execSetParameter, hone, if_neg hunfit]
    rfl
  · obtain rfl : pl = id :: leValue v w := by cases w <;> exact hpl
    rw [exec_answered (k := .setParameter a id v _) rfl (opening_setParameter a hw hv) hx hf hr]
    cases ans.payload with
    | none => rfl
    | some q =>
      simp only [Option.map_some, replyDone, setParameterDone]
      split <;> rfl

/-- Settles O30: the id is checked before the request, and the reply's id and length behind it. -/
theorem getParameterOutcome : Obligations.GetParameterOutcome := by
  refine fun a id s => ⟨fun hno => ?_, fun w ans rest hw hf hx hr => ?_⟩
  · simp only [exec, execGetParameter, hno]
    rfl
  · rw [exec_answered (k := .getParameter a id w) rfl (opening_getParameter a hw) hx hf hr]
    cases ans.payload with
    | none => rfl
    | some q =>
      simp only [Option.map_some, replyDone, getParameterDone, paramValue_eq_paramReading]
      cases paramReading id w q <;> rfl

/-- Settles O32: each table is a search for the entry with the key. The default map has distinct bytes, so its clause is
the general ones at its five entries and at any other byte. -/
theorem nameTables : Obligations.NameTables := by
  refine fun cfg x => ⟨fun h => ?_, fun h => ?_, fun h => ?_, fun hd _ => shuntReport_of_mem hd, shuntReport_of_unmapped,
    fun hd _ => paramWidth_of_mem hd, paramWidth_of_unregistered⟩
  · simp [boardType, h]
  · simp [boardType, h]
  · have known : ∀ p ∈ defaultShuntStates, x.toNat = p.1.toNat → shuntReport cfg x = .known p.2 := fun p hp hx =>
      shuntReport_of_mem (h ▸ by decide) (h ▸ hp) (BitVec.eq_of_toNat_eq hx.symm)
    split
    case h_1 hx => exact known (0x00, .off) (by decide) hx
    case h_2 hx => exact known (0x01, .idle) (by decide) hx
    case h_3 hx => exact known (0x02, .on) (by decide) hx
    case h_4 hx => exact known (0x03, .undervolt) (by decide) hx
    case h_5 hx => exact known (0x04, .overtemp) (by decide) hx
    case h_6 h0 h1 h2 h3 h4 =>
      refine shuntReport_of_unmapped (h ▸ ?_)
      simp [defaultShuntStates, ← BitVec.toNat_inj, Ne.symm h0, Ne.symm h1, Ne.symm h2, Ne.symm h3, Ne.symm h4]

end Sys2Proof.Proofs

/-!
SUPPORT. The session sequences (44_session_sequences.md R290, R295, R300) as loops of whole exchanges: what one exchange
leaves is a state of the same form, with the loop's next index in `seq_idx` and the events not yet read on `RX`, so that
each loop is an induction over the answers.
-/

namespace Sys2Proof.Machine

open Sys2Proof.Claims

/-! ## One exchange of a sequence -/

/-- `seq_idx` stands at this index (R41). -/
def atIndex (i : Nat) (s : State) : State := { s with seqIdx := BitVec.ofNat 32 i }

/-- The exchange of a request and its answer (R230, R231), with the events left on `RX` not yet said. -/
def exchanged (a c : Byte) (pl : List Byte) (ans : Answer) (s : State) : State :=
  answered a c ans [] (requested a c pl s)

@[simp] theorem exchanged_cfg (a c : Byte) (pl : List Byte) (ans : Answer) (s : State) :
    (exchanged a c pl ans s).cfg = s.cfg := answered_cfg a c ans [] _

@[simp] theorem exchanged_rxState (a c : Byte) (pl : List Byte) (ans : Answer) (s : State) :
    (exchanged a c pl ans s).rxState = .seekPreamble := answered_rxState a c ans [] _

@[simp] theorem exchanged_seqPresent (a c : Byte) (pl : List Byte) (ans : Answer) (s : State) :
    (exchanged a c pl ans s).seqPresent = s.seqPresent := answered_seqPresent a c ans [] _

@[simp] theorem exchanged_seqResults (a c : Byte) (pl : List Byte) (ans : Answer) (s : State) :
    (exchanged a c pl ans s).seqResults = s.seqResults := answered_seqResults a c ans [] _

@[simp] theorem exchanged_stop (a c : Byte) (pl : List Byte) (ans : Answer) (s : State) :
    (exchanged a c pl ans s).stop = s.stop := answered_stop a c ans [] _

@[simp] theorem exchanged_stopNext (a c : Byte) (pl : List Byte) (ans : Answer) (s : State) :
    (exchanged a c pl ans s).stopNext = s.stopNext := answered_stopNext a c ans [] _

/-- An exchange neither reads nor writes the sequencer's index. -/
theorem exchanged_atIndex (a c : Byte) (pl : List Byte) (ans : Answer) (i : Nat) (s : State) :
    exchanged a c pl ans (atIndex i s) = atIndex i (exchanged a c pl ans s) := by
  cases ans <;> simp [exchanged, atIndex, requested, answered, received, tookFrame, timedOut]

theorem replyDone_rx (k : ReplyPos) (r : Option Packet) (s : State) : (replyDone k r s).rx = s.rx :=
  calc (replyDone k r s).rx
      = (setRx s.rx (replyDone k r s)).rx := congrArg State.rx (replyDone_setRx s.rx k r s)
    _ = s.rx := rfl

/-- One exchange of a sequence: the operation goes on behind its wait, and the events behind the answer are still to
read. -/
theorem pump_exchanged {k : ReplyPos} {a c : Byte} {pl : List Byte} {ans : Answer} {rest : List RxEvent} {s : State}
    (hf : AnswerFits s.cfg ans) (hx : s.rxState = .seekPreamble) :
    pump (exchange a c pl k (readUpTo (answerEvents s.cfg a c ans ++ rest) s)) =
      pump (replyDone k (ans.payload.map fun q => ⟨a, c, true, q⟩) (readUpTo rest (exchanged a c pl ans s))) := by
  have htaken : answered a c ans rest (requested a c pl (readUpTo (answerEvents s.cfg a c ans ++ rest) s)) =
      readUpTo rest (exchanged a c pl ans s) := by
    cases ans <;> simp [exchanged, readUpTo, requested, answered, received, tookFrame, timedOut]
  rw [pump_request (by exact hf) (by exact hx) rfl, htaken, pump, replyDone_rx]
  rfl

/-! ## The scan (R290) -/

/-- One address of a scan: its PING, the answer, and the record of an address that answered. -/
def pinged (a : Nat) (ans : Answer) (s : State) : State :=
  let u := exchanged (BitVec.ofNat 8 a) 0x01 [] ans s
  { u with seqPresent := u.seqPresent ++ if ans.payload.isSome then [BitVec.ofNat 8 a] else [] }

theorem scanned_cons (a : Nat) (ans : Answer) (l : List Answer) (s : State) :
    scanned a (ans :: l) s = scanned (a + 1) l (pinged a ans s) := rfl

/-- A scan leaves the parameters and the levels of `STOP` alone, ends between two frames, and appends the addresses that
answered. -/
theorem scanned_frame (a : Nat) (l : List Answer) (s : State) :
    (scanned a l s).cfg = s.cfg ∧ stopLevel (scanned a l s) = stopLevel s ∧
      (s.rxState = .seekPreamble → (scanned a l s).rxState = .seekPreamble) ∧
      (scanned a l s).seqPresent = s.seqPresent ++ scanPresent a l := by
  induction l generalizing a s with
  | nil => exact ⟨rfl, rfl, id, (List.append_nil _).symm⟩
  | cons ans l ih =>
    obtain ⟨hcfg, hstop, hseek, hpresent⟩ := ih (a + 1) (pinged a ans s)
    rw [scanned_cons, hcfg, hstop, hpresent]
    exact ⟨by simp [pinged], by simp [pinged, stopLevel], fun _ => hseek (by simp [pinged]),
      by simp [pinged, scanPresent]⟩

/-- The position `k` is the wait of a scan up to `n` that goes on with `fin`. -/
def IsScan (n : Byte) (k : ReplyPos) (fin : State → State) : Prop :=
  ∀ r s, replyDone k r s = scanFrom n (s.seqIdx.toNat + 1) k fin (scanRecord r s)

theorem isScan_discover (n : Byte) : IsScan n (.discover n) discoverEnd := fun _ _ => rfl

theorem isScan_monitorScan (n : Byte) : IsScan n (.monitorScan n) monitorScanEnd := fun _ _ => rfl

/-- Behind the wait for address `a` the scan records the answer under `seq_idx`, which is `a`, and goes on behind it. -/
theorem IsScan.replyDone_eq {n : Byte} {k : ReplyPos} {fin : State → State} (hk : IsScan n k fin) {a : Nat}
    (ha : a ≤ n.toNat) (ans : Answer) (rest : List RxEvent) (s : State) :
    replyDone k (ans.payload.map fun q => ⟨BitVec.ofNat 8 a, 0x01, true, q⟩)
        (readUpTo rest (exchanged (BitVec.ofNat 8 a) 0x01 [] ans (atIndex a s))) =
      scanFrom n (a + 1) k fin (readUpTo rest (atIndex a (pinged a ans s))) := by
  rw [hk, exchanged_atIndex]
  have hidx : (readUpTo rest (atIndex a (exchanged (BitVec.ofNat 8 a) 0x01 [] ans s))).seqIdx.toNat = a :=
    toNat_ofNat32 ha
  rw [hidx]
  congr 1
  cases hp : ans.payload <;> simp [scanRecord, pinged, hp, readUpTo, atIndex]

/-- The scan from behind address `a` on: an exchange per address up to `n`, and then its end. -/
theorem pump_scanFrom {n : Byte} {k : ReplyPos} {fin : State → State} (hk : IsScan n k fin) (rest : List RxEvent)
    {a : Nat} {answers : List Answer} {s : State} (hlen : a + answers.length = n.toNat)
    (hf : ∀ ans ∈ answers, AnswerFits s.cfg ans) (hx : s.rxState = .seekPreamble) :
    pump (scanFrom n (a + 1) k fin (readUpTo (scanEvents s.cfg (a + 1) answers ++ rest) (atIndex a s))) =
      pump (fin (readUpTo rest (atIndex n.toNat (scanned (a + 1) answers s)))) := by
  induction answers generalizing a s with
  | nil =>
    obtain rfl : a = n.toNat := hlen
    rw [scanFrom, if_neg (Nat.not_succ_le_self _)]
    rfl
  | cons ans l ih =>
    have ha : a + 1 ≤ n.toNat := by rw [List.length_cons] at hlen; omega
    obtain ⟨hans, hl⟩ := List.forall_mem_cons.1 hf
    have hcfg : (pinged (a + 1) ans s).cfg = s.cfg := exchanged_cfg _ _ _ _ s
    rw [scanFrom, if_pos ha, scanEvents, List.append_assoc]
    calc pump (exchange (BitVec.ofNat 8 (a + 1)) 0x01 [] k (readUpTo
          (answerEvents s.cfg (BitVec.ofNat 8 (a + 1)) 0x01 ans ++ (scanEvents s.cfg (a + 2) l ++ rest))
          (atIndex (a + 1) s)))
        = pump (scanFrom n (a + 2) k fin
            (readUpTo (scanEvents s.cfg (a + 2) l ++ rest) (atIndex (a + 1) (pinged (a + 1) ans s)))) := by
          rw [← hk.replyDone_eq ha]
          exact pump_exchanged (s := atIndex (a + 1) s) hans hx
      _ = pump (fin (readUpTo rest (atIndex n.toNat (scanned (a + 2) l (pinged (a + 1) ans s))))) := by
          rw [← hcfg]
          exact ih (by rw [List.length_cons] at hlen; omega) (hcfg ▸ hl) (exchanged_rxState _ _ _ _ s)

/-- The whole scan of R290 before its end: the short timeout, the cleared list, and every address from 1 on. -/
def scannedAll (answers : List Answer) (s : State) : State :=
  scanned 1 answers (selected .discover { s with seqPresent := [] })

theorem scannedAll_cfg (answers : List Answer) (s : State) : (scannedAll answers s).cfg = s.cfg := by
  obtain ⟨hcfg, -⟩ := scanned_frame 1 answers (selected .discover { s with seqPresent := [] })
  exact hcfg

theorem scannedAll_stopLevel (answers : List Answer) (s : State) : stopLevel (scannedAll answers s) = stopLevel s := by
  obtain ⟨-, hstop, -⟩ := scanned_frame 1 answers (selected .discover { s with seqPresent := [] })
  exact hstop

theorem scannedAll_rxState (answers : List Answer) {s : State} (hx : s.rxState = .seekPreamble) :
    (scannedAll answers s).rxState = .seekPreamble := by
  obtain ⟨-, -, hseek, -⟩ := scanned_frame 1 answers (selected .discover { s with seqPresent := [] })
  exact hseek hx

theorem scannedAll_seqPresent (answers : List Answer) (s : State) :
    (scannedAll answers s).seqPresent = scanPresent 1 answers := by
  obtain ⟨-, -, -, hpresent⟩ := scanned_frame 1 answers (selected .discover { s with seqPresent := [] })
  exact hpresent

/-- From its start a scan exchanges with every address from 1 to `n`, and goes on with `fin`. -/
theorem pump_scanStart {n : Byte} {k : ReplyPos} {fin : State → State} (hk : IsScan n k fin) {answers : List Answer}
    {rest : List RxEvent} {s : State} (hlen : answers.length = n.toNat) (hf : ∀ ans ∈ answers, AnswerFits s.cfg ans)
    (hx : s.rxState = .seekPreamble) (hr : s.rx = scanEvents s.cfg 1 answers ++ rest) :
    pump (scanFrom n 1 k fin (scanStart s)) = pump (fin (readUpTo rest (atIndex n.toNat (scannedAll answers s)))) := by
  have hstart : scanStart s = readUpTo (scanEvents s.cfg 1 answers ++ rest)
      (atIndex 0 (selected .discover { s with seqPresent := [] })) := by
    rw [← hr]
    rfl
  rw [hstart]
  exact pump_scanFrom hk rest (s := selected .discover { s with seqPresent := [] })
    ((Nat.zero_add _).trans hlen) hf hx

/-- The end of DISCOVER: the timeout select goes back, and the result is the list (R290). -/
theorem pump_discoverEnd (s : State) :
    pump (discoverEnd s) = ended .ok (.addresses s.seqPresent) (selected .normal s) :=
  pump_result _ _ _

/-! ## The listing (R295) -/

/-- One registry entry of a listing: its GET_PARAMETER, the answer and the record. -/
def listedEntry (a : Byte) (d : ParamDescriptor) (ans : Answer) (s : State) : State :=
  let u := exchanged a 0x0A [d.id] ans s
  { u with seqResults := u.seqResults ++ [paramRecord d ans] }

theorem listed_cons (a : Byte) (d : ParamDescriptor) (ans : Answer) (l : List (ParamDescriptor × Answer)) (s : State) :
    listed a ((d, ans) :: l) s = listed a l (listedEntry a d ans s) := rfl

theorem listed_seqResults (a : Byte) (l : List (ParamDescriptor × Answer)) (s : State) :
    (listed a l s).seqResults = s.seqResults ++ l.map fun e => paramRecord e.1 e.2 := by
  induction l generalizing s with
  | nil => exact (List.append_nil _).symm
  | cons e l ih =>
    rw [listed_cons, ih]
    simp [listedEntry]

/-- The record of an entry is R249's reading of the reply. -/
theorem paramRecord_eq (a : Byte) (d : ParamDescriptor) (ans : Answer) :
    paramRecord d ans =
      ⟨d.id, d.name, paramOutcome d.id d.width (ans.payload.map fun q => ⟨a, 0x0A, true, q⟩)⟩ := by
  cases hp : ans.payload with
  | none => simp only [paramRecord, paramOutcome, hp, Option.map_none]
  | some q =>
    cases hv : paramReading d.id d.width q <;>
      simp only [paramRecord, paramOutcome, hp, Option.map_some, paramValue_eq_paramReading, hv]

/-- Distinct one-byte ids are at most 256, so the listing's index fits `seq_idx`. -/
theorem registry_length_le {l : List ParamDescriptor} (hd : (l.map ParamDescriptor.id).Nodup) : l.length ≤ 256 := by
  have hfin := (hd.map (f := BitVec.toFin) fun _ _ => BitVec.eq_of_toFin_eq).length_le_card
  simpa using hfin

theorem replyDone_getAll {a : Byte} {d : ParamDescriptor} {i : Nat} (hi : i < 2 ^ 32) (ans : Answer)
    (rest : List RxEvent) (s : State) :
    replyDone (.getAll a d) (ans.payload.map fun q => ⟨a, 0x0A, true, q⟩)
        (readUpTo rest (exchanged a 0x0A [d.id] ans (atIndex i s))) =
      getAllFrom a (i + 1) (readUpTo rest (atIndex i (listedEntry a d ans s))) := by
  have hidx : (readUpTo rest (atIndex i (exchanged a 0x0A [d.id] ans s))).seqIdx.toNat = i :=
    (BitVec.toNat_ofNat i 32).trans (Nat.mod_eq_of_lt hi)
  rw [exchanged_atIndex, replyDone, getAllDone, hidx, ← paramRecord_eq]
  rfl

theorem getAllFrom_of_entry {a : Byte} {i : Nat} {d : ParamDescriptor} {s : State} (h : s.cfg.registry[i]? = some d) :
    getAllFrom a i s = exchange a 0x0A [d.id] (.getAll a d) (atIndex i s) := by
  simp only [getAllFrom, h]
  rfl

theorem getAllFrom_of_end {a : Byte} {i : Nat} {s : State} (h : s.cfg.registry[i]? = none) :
    getAllFrom a i s = ended .ok (.params s.seqResults) s := by
  simp only [getAllFrom, h]
  rfl

/-- The listing from registry index `i` on: an exchange per entry, and then the result. -/
theorem pump_getAllFrom (a : Byte) (rest : List RxEvent) {i : Nat} {entries : List (ParamDescriptor × Answer)}
    {s : State} (hreg : s.cfg.registry.drop i = entries.map Prod.fst) (hbound : s.cfg.registry.length ≤ 256)
    (hf : ∀ e ∈ entries, AnswerFits s.cfg e.2) (hx : s.rxState = .seekPreamble) :
    pump (getAllFrom a i
        (readUpTo (entries.flatMap (fun e => answerEvents s.cfg a 0x0A e.2) ++ rest) (atIndex (i - 1) s))) =
      ended .ok (.params (listed a entries s).seqResults)
        (readUpTo rest (atIndex (i + entries.length - 1) (listed a entries s))) := by
  induction entries generalizing i s with
  | nil =>
    have hend : s.cfg.registry[i]? = none := List.getElem?_eq_none (List.drop_eq_nil_iff.1 hreg)
    rw [getAllFrom_of_end (by exact hend)]
    exact pump_of_idle rfl
  | cons e l ih =>
    obtain ⟨d, ans⟩ := e
    have hentry : s.cfg.registry[i]? = some d := by
      rw [← List.head?_drop, hreg]
      rfl
    have hnext : s.cfg.registry.drop (i + 1) = l.map Prod.fst := by
      rw [← List.tail_drop, hreg]
      rfl
    have hi : i < s.cfg.registry.length := (List.getElem?_eq_some_iff.1 hentry).1
    obtain ⟨hans, hl⟩ := List.forall_mem_cons.1 hf
    have hcfg : (listedEntry a d ans s).cfg = s.cfg := exchanged_cfg _ _ _ _ s
    have hlast : i + ((d, ans) :: l).length = i + 1 + l.length := by rw [List.length_cons]; omega
    rw [getAllFrom_of_entry (by exact hentry), List.flatMap_cons, List.append_assoc, listed_cons, hlast]
    calc pump (exchange a 0x0A [d.id] (.getAll a d) (readUpTo (answerEvents s.cfg a 0x0A ans ++
          (l.flatMap (fun e => answerEvents s.cfg a 0x0A e.2) ++ rest)) (atIndex i s)))
        = pump (getAllFrom a (i + 1) (readUpTo (l.flatMap (fun e => answerEvents s.cfg a 0x0A e.2) ++ rest)
            (atIndex i (listedEntry a d ans s)))) := by
          rw [← replyDone_getAll (by omega)]
          exact pump_exchanged (s := atIndex i s) hans hx
      _ = _ := by
          rw [← hcfg]
          exact ih (hcfg ▸ hnext) (hcfg ▸ hbound) (hcfg ▸ hl) (exchanged_rxState _ _ _ _ s)

/-! ## The polling rounds (R300) -/

/-- MONITOR's outcome for a node is R245's reading of the reply. -/
theorem statusOutcome_eq_pollOutcome (cfg : Config) (a : Byte) (o : Option (List Byte)) :
    statusOutcome cfg (o.map fun q => ⟨a, 0x06, true, q⟩) = pollOutcome cfg o := by
  cases o with
  | none => rfl
  | some q =>
    by_cases hlen : q.length = 5
    · match q, hlen with
      | [q0, q1, q2, q3, q4], _ => simp [statusOutcome, statusOf, pollOutcome, sext16_eq]
    · simp only [Option.map_some, statusOutcome, statusOf_eq_none cfg hlen, pollOutcome]
      split
      case h_1 heq =>
        cases heq
        exact absurd rfl hlen
      case h_2 heq =>
        cases heq
        rfl
      case h_3 heq => cases heq

/-- One node of a polling round: its GET_STATUS, the answer and the record on `HOST_OUT`. -/
def polledNode (a : Byte) (ans : Answer) (s : State) : State :=
  let u := exchanged a 0x06 [] ans s
  { u with portLog := u.portLog ++ [.out (.monitor a (pollOutcome u.cfg ans.payload))] }

theorem polled_cons (a : Byte) (ans : Answer) (l : List (Byte × Answer)) (s : State) :
    polled ((a, ans) :: l) s = polled l (polledNode a ans s) := rfl

theorem replyDone_monitorPoll (a : Byte) (l : List Byte) (ans : Answer) (rest : List RxEvent) (s : State) :
    replyDone (.monitorPoll a l) (ans.payload.map fun q => ⟨a, 0x06, true, q⟩)
        (readUpTo rest (exchanged a 0x06 [] ans s)) =
      monitorPollFrom l (readUpTo rest (polledNode a ans s)) := by
  rw [replyDone, monitorPollDone, statusOutcome_eq_pollOutcome]
  rfl

/-- After the last node `STOP` is sampled once, and decides between the result and the pause. -/
theorem pump_monitorPollFrom_nil (s : State) : pump (monitorPollFrom [] s) = afterRound (stopLevel s) s := by
  cases hstop : stopLevel s with
  | true =>
    simp only [monitorPollFrom, hstop, if_true, pump_result]
    simp [afterRound, ended, result_eq, stopSample_eq, hstop]
  | false =>
    have hpause : pump (waitAt .monitorPause (stopSample s)) = waitAt .monitorPause (stopSample s) :=
      drain_of_not_awaits rfl _
    simp only [monitorPollFrom, hstop, Bool.false_eq_true, if_false, hpause]
    simp [afterRound, running, waitAt, stopSample_eq, hstop]

/-- A polling round: an exchange per node, and then its end. -/
theorem pump_monitorPollFrom (rest : List RxEvent) {polls : List (Byte × Answer)} {s : State}
    (hf : ∀ p ∈ polls, AnswerFits s.cfg p.2) (hx : s.rxState = .seekPreamble) :
    pump (monitorPollFrom (polls.map Prod.fst) (readUpTo (pollEvents s.cfg polls ++ rest) s)) =
      afterRound (stopLevel s) (readUpTo rest (polled polls s)) := by
  induction polls generalizing s with
  | nil => exact pump_monitorPollFrom_nil (readUpTo rest s)
  | cons p l ih =>
    obtain ⟨a, ans⟩ := p
    obtain ⟨hans, hl⟩ := List.forall_mem_cons.1 hf
    have hcfg : (polledNode a ans s).cfg = s.cfg := exchanged_cfg _ _ _ _ s
    have hstop : stopLevel (polledNode a ans s) = stopLevel s := by simp [stopLevel, polledNode]
    have hevents : pollEvents s.cfg ((a, ans) :: l) ++ rest =
        answerEvents s.cfg a 0x06 ans ++ (pollEvents s.cfg l ++ rest) := List.append_assoc _ _ _
    rw [polled_cons]
    calc pump (exchange a 0x06 [] (.monitorPoll a (l.map Prod.fst))
          (readUpTo (pollEvents s.cfg ((a, ans) :: l) ++ rest) s))
        = pump (monitorPollFrom (l.map Prod.fst) (readUpTo (pollEvents s.cfg l ++ rest) (polledNode a ans s))) := by
          rw [hevents, pump_exchanged hans hx, replyDone_monitorPoll]
      _ = afterRound (stopLevel s) (readUpTo rest (polled l (polledNode a ans s))) := by
          rw [← hcfg, ← hstop]
          exact ih (hcfg ▸ hl) (exchanged_rxState _ _ _ _ s)

/-- A round polls the nodes of the present list (R300). -/
theorem pump_monitorRound {cfg : Config} {polls : List (Byte × Answer)} {rest : List RxEvent} {level : Bool}
    {s : State} (hcfg : s.cfg = cfg) (hlist : polls.map Prod.fst = s.seqPresent) (hf : ∀ p ∈ polls, AnswerFits cfg p.2)
    (hx : s.rxState = .seekPreamble) (hlevel : level = stopLevel s) :
    pump (monitorRound (readUpTo (pollEvents cfg polls ++ rest) s)) =
      afterRound level (readUpTo rest (polled polls s)) := by
  subst hcfg hlevel
  rw [← pump_monitorPollFrom rest hf hx, hlist]
  rfl

/-- The end of MONITOR's scan: the timeout select goes back, and the first round begins (R300). -/
theorem monitorScanEnd_eq (s : State) : monitorScanEnd s = monitorRound (selected .normal s) := rfl

end Sys2Proof.Machine

/-!
CLAIMS. The statements on the session sequences (44_session_sequences.md).
-/

namespace Sys2Proof.Proofs

open Sys2Proof.Machine Sys2Proof.Claims

/-- Settles O33: the scan is one exchange per address, and its list is the addresses that answered. -/
theorem discoverOutcome : Obligations.DiscoverOutcome := by
  refine fun n s => ⟨fun hbig => congrArg Host.Outcome.next (if_pos hbig), fun answers rest hn hlen hf hx hr => ?_⟩
  refine ⟨BitVec.ofNat 32 n.toNat, fun _ => rfl, ?_⟩
  rw [exec_eq_pump_opening, opening, if_neg (Nat.not_lt.2 hn), pump_scanStart (isScan_discover n) hlen hf hx hr,
    pump_discoverEnd, ← scannedAll_seqPresent answers s]
  rfl

/-- Settles O34: the ids are distinct, so the registry's indices fit `seq_idx`, and the listing is one exchange per
entry. -/
theorem getAllParametersOutcome : Obligations.GetAllParametersOutcome := by
  intro a entries rest s hreg hnodup hf hx hr
  refine ⟨BitVec.ofNat 32 (entries.length - 1), fun _ => rfl, ?_⟩
  have hstart : { s with seqIdx := 0, seqResults := [] } =
      readUpTo (entries.flatMap (fun e => answerEvents s.cfg a 0x0A e.2) ++ rest)
        (atIndex (0 - 1) { s with seqResults := [] }) := by rw [← hr]; rfl
  have hpump := pump_getAllFrom a rest (i := 0) (s := { s with seqResults := [] }) hreg.symm
    (registry_length_le hnodup) hf hx
  rw [exec_eq_pump_opening, opening, hstart, hpump, listed_seqResults, Nat.zero_add]
  rfl

/-- Settles O35: the scan, and behind it a round over the addresses that answered. -/
theorem monitorOutcome : Obligations.MonitorOutcome := by
  refine fun n s => ⟨fun hbig => congrArg Host.Outcome.next (if_pos hbig),
    fun answers polls rest level hn hlen hf hpolls hfp hx hr hlevel => ?_⟩
  refine ⟨BitVec.ofNat 32 n.toNat, fun _ => rfl, ?_⟩
  have hround := pump_monitorRound (s := selected .normal (atIndex n.toNat (scannedAll answers s))) (rest := rest)
    (scannedAll_cfg answers s) (hpolls.trans (scannedAll_seqPresent answers s).symm) hfp (scannedAll_rxState answers hx)
    (hlevel.trans (scannedAll_stopLevel answers s).symm)
  rw [List.append_assoc] at hr
  rw [exec_eq_pump_opening, opening, if_neg (Nat.not_lt.2 hn), pump_scanStart (isScan_monitorScan n) hlen hf hx hr,
    monitorScanEnd_eq]
  exact congrArg Host.Outcome.next hround

/-- Settles O36: the pause ends with a round over the present list. -/
theorem monitorNextRound : Obligations.MonitorNextRound := by
  intro polls rest level s ho hpolls hf hx hr hlevel
  have hresume : resume s = pump (monitorRound s) := by simp only [resume, ho]
  have hround := pump_monitorRound (rest := rest) rfl hpolls hf hx hlevel
  rw [← hr] at hround
  rw [step_busy ho, hresume]
  exact congrArg Host.Outcome.next hround

end Sys2Proof.Proofs

/-!
SUPPORT. A bootloader exchange (45_bootloader.md R323) as one act: the request, and the read that answers it. What the
operations of one exchange do behind their read, said once, in the words of the statements (R320 to R325).
-/

namespace Sys2Proof.Machine

open Sys2Proof.Claims

/-! ## One exchange (R12, R33) -/

/-- A bootloader request went out, and the events that bring the reply `r` were taken. -/
def asked (req : List Byte) (want : Nat) (r : List Byte) (s : State) : State :=
  { s with portLog := s.portLog ++ bootLog req want r }

theorem readDone_rx (k : ReadPos) (r : List Byte) (s : State) : (readDone k r s).rx = s.rx :=
  calc (readDone k r s).rx
      = (setRx s.rx (readDone k r s)).rx := congrArg State.rx (readDone_setRx s.rx k r s)
    _ = s.rx := rfl

/-- A bootloader exchange: the operation goes on behind its read, and the events behind the reply are still to read. -/
theorem pump_bootExchange {req : List Byte} {want : Nat} {k : ReadPos} {r : List Byte} {rest : List RxEvent} {s : State}
    (hw : 0 < want) (hl : r.length ≤ want) (hr : s.rx = readEvents want r ++ rest) :
    pump (bootExchange req want k s) = pump (readDone k r (readUpTo rest (asked req want r s))) := by
  rw [pump_boot hw hl hr, pump, readDone_rx]
  rfl

/-- A block write went out behind the data register and the longer timeout (R324), and the events of its reply were
taken. -/
def blockSent (d : Vector Byte 16) (r : List Byte) (s : State) : State :=
  asked (progPageRequest s.cfg.stk d) 2 r (selected .write { s with blData := d })

/-- A block write sets the longer timeout and the data register before its exchange (R324). -/
theorem pump_writeBlockSend {d : Vector Byte 16} {k : ReadPos} {r : List Byte} {rest : List RxEvent} {s : State}
    (hl : r.length ≤ 2) (hr : s.rx = readEvents 2 r ++ rest) :
    pump (writeBlockSend d k s) = pump (readDone k r (readUpTo rest (blockSent d r s))) :=
  pump_bootExchange (s := selected .write { s with blData := d }) (by decide) hl hr

/-! ## BL_SYNC (R320) -/

/-- Attempts of BL_SYNC that brought these replies. -/
def attempted (tries : List (List Byte)) (s : State) : State :=
  { s with
    blRetry := s.blRetry + tries.length
    portLog := s.portLog ++ tries.flatMap (bootLog (getSyncRequest s.cfg.stk) 2) }

theorem syncDone_ack (s : State) : syncDone ackReply s = ended .ok (.count s.blRetry) s :=
  if_pos (by rw [ack2_eq]; rfl)

theorem syncDone_failed {r : List Byte} (h : r ≠ ackReply) (s : State) : syncDone r s = syncTry s :=
  if_neg (by simp [ack2_eq, h])

theorem syncTry_exhausted {s : State} (h : s.blRetry = s.cfg.syncAttempts) :
    syncTry s = ended .syncFailed (.count s.cfg.syncAttempts) s :=
  if_neg (by omega)

/-- One attempt, whatever it reads. -/
theorem pump_syncTry {r : List Byte} {rest : List RxEvent} {s : State} (hretry : s.blRetry < s.cfg.syncAttempts)
    (hl : r.length ≤ 2) (hr : s.rx = readEvents 2 r ++ rest) :
    pump (syncTry s) = pump (syncDone r (readUpTo rest (attempted [r] s))) := by
  have hasked : asked (getSyncRequest s.cfg.stk) 2 r { s with blRetry := s.blRetry + 1 } = attempted [r] s := by
    simp [asked, attempted]
  rw [syncTry, if_pos hretry, pump_bootExchange (by decide) hl (by exact hr), hasked, readDone]

/-- Attempts that fail leave the loop at its test, with their number counted. -/
theorem pump_syncTry_failed {tries : List (List Byte)} {rest : List RxEvent} {s : State}
    (hbound : s.blRetry + tries.length ≤ s.cfg.syncAttempts) (hf : ∀ r ∈ tries, r.length ≤ 2 ∧ r ≠ ackReply)
    (hr : s.rx = tries.flatMap (readEvents 2) ++ rest) :
    pump (syncTry s) = pump (syncTry (readUpTo rest (attempted tries s))) := by
  induction tries generalizing s with
  | nil => simp [attempted, readUpTo, ← show s.rx = rest from hr]
  | cons r tries ih =>
    obtain ⟨⟨hl, hne⟩, htries⟩ := List.forall_mem_cons.1 hf
    rw [List.flatMap_cons, List.append_assoc] at hr
    rw [List.length_cons] at hbound
    have hnext := ih (s := readUpTo (tries.flatMap (readEvents 2) ++ rest) (attempted [r] s))
      ((Nat.add_right_comm ..).trans_le hbound) htries rfl
    rw [pump_syncTry (by omega) hl hr, syncDone_failed hne, hnext]
    simp [attempted, readUpTo, Nat.add_assoc, Nat.add_comm 1]

/-! ## BL_GET_VERSION (R321) -/

theorem versionByte_reply (c : StkCodes) (v : Byte) : versionByte c [0x14, v, 0x10] = some v := by
  rw [versionByte]
  exact if_pos ⟨rfl, rfl⟩

theorem versionMinorDone_reply (v : Byte) (s : State) :
    versionMinorDone [0x14, v, 0x10] s = bootExchange (versionRequest s.cfg.stk .major) 3 (.versionMajor v) s := by
  rw [versionMinorDone, versionByte_reply]

theorem versionMinorDone_bad {r : List Byte} (h : ∀ v, r ≠ [0x14, v, 0x10]) (s : State) :
    versionMinorDone r s = ended .blBadAck (.badVersion .minor r) s := by
  rw [versionMinorDone, versionByte_none h]
  rfl

theorem versionMajorDone_reply (minor v : Byte) (s : State) :
    versionMajorDone minor [0x14, v, 0x10] s = ended .ok (.version v minor) s := by
  rw [versionMajorDone, versionByte_reply]
  rfl

theorem versionMajorDone_bad (minor : Byte) {r : List Byte} (h : ∀ v, r ≠ [0x14, v, 0x10]) (s : State) :
    versionMajorDone minor r s = ended .blBadAck (.badVersion .major r) s := by
  rw [versionMajorDone, versionByte_none h]
  rfl

/-! ## The block exchanges (R322, R324, R325) -/

theorem loadAddressOk_iff {addr : Nat} : loadAddressOk addr = true ↔ addr % 2 = 0 ∧ addr < 0x20000 := by
  simp [loadAddressOk]

/-- The cursor after a load address that brought `r` is that of the statements' `loadedWindow`. -/
theorem loadAck_asked (b : Nat) (r : List Byte) (s : State) :
    loadAck (wordAddress b) r (asked (loadAddressRequest s.cfg.stk (wordAddress b)) 2 r s) = loadedWindow b r s := by
  rw [loadAck_eq]
  rfl

theorem loadAddressDone_eq (w : Word16) (r : List Byte) (s : State) :
    loadAddressDone w r s =
      (if r = ackReply then ended .ok (.word w) else ended .blBadAck (.bytes r)) (loadAck w r s) := by
  simp only [loadAddressDone, ack2_eq, decide_eq_true_eq]
  split <;> rfl

/-- A block write that brought `r` is the statements' `wroteBlock`. -/
theorem writeAck_blockSent (d : Vector Byte 16) (r : List Byte) (s : State) :
    writeAck (blockSent d r s) = wroteBlock d r s := by
  simp [writeAck_eq, blockSent, asked, selected, wroteBlock]

theorem writeBlockDone_eq (r : List Byte) (s : State) :
    writeBlockDone r s =
      (if r = ackReply then ended .ok (.count 16) else ended .blBadAck (.bytes r)) (writeAck s) := by
  simp only [writeBlockDone, ack2_eq, decide_eq_true_eq]
  split <;> rfl

theorem readAck_blockReply (d : Vector Byte 16) (s : State) :
    readAck (blockReply d) s = { s with blCursorValid := false, blData := d } := by
  rw [readAck, readPageData_blockReply]

theorem readAck_bad {r : List Byte} (h : ∀ d, r ≠ blockReply d) (s : State) :
    readAck r s = { s with blCursorValid := false } := by
  rw [readAck, readPageData_none h]

theorem readBlockDone_blockReply (d : Vector Byte 16) (s : State) :
    readBlockDone (blockReply d) s = ended .ok (.block d) (readAck (blockReply d) s) := by
  rw [readBlockDone, readPageData_blockReply]
  rfl

theorem readBlockDone_bad {r : List Byte} (h : ∀ d, r ≠ blockReply d) (s : State) :
    readBlockDone r s = ended .blBadAck (.bytes r) (readAck r s) := by
  rw [readBlockDone, readPageData_none h]
  rfl

@[simp] theorem pump_ended (c : ResultCode) (d : ResultData) (s : State) : pump (ended c d s) = ended c d s :=
  pump_result c d s

/-- An operation that ends either way has ended. -/
theorem pump_ended_ite {p : Prop} [Decidable p] (c c' : ResultCode) (d d' : ResultData) (s : State) :
    pump ((if p then ended c d else ended c' d') s) = (if p then ended c d else ended c' d') s := by
  split <;> exact pump_ended _ _ s

end Sys2Proof.Machine

/-!
CLAIMS. The statements on the single bootloader operations (45_bootloader.md R320 to R325).
-/

namespace Sys2Proof.Proofs

open Sys2Proof.Machine Sys2Proof.Claims

/-- Settles O37: the failed attempts leave the loop at its test, which the next attempt or the end follows. -/
theorem blSyncOutcome : Obligations.BlSyncOutcome := by
  intro tries rest s hf
  refine ⟨fun hlt hr => ?_, fun heq hr => ?_⟩
  · rw [List.flatMap_append, List.flatMap_singleton, List.append_assoc] at hr
    rw [exec_eq_pump_opening, opening, pump_syncTry_failed ((Nat.zero_add _).trans_le hlt.le) hf (by exact hr),
      pump_syncTry ((Nat.zero_add _).trans_lt hlt) (by decide) rfl, syncDone_ack, pump_ended]
    simp [attempted, readUpTo, getSyncRequest]
  · rw [exec_eq_pump_opening, opening, pump_syncTry_failed ((Nat.zero_add _).trans_le heq.le) hf (by exact hr),
      syncTry_exhausted ((Nat.zero_add _).trans heq), pump_ended]
    simp [attempted, readUpTo, getSyncRequest, heq]

/-- Settles O38: the minor exchange, and behind a good reply the major one. -/
theorem blVersionOutcome : Obligations.BlVersionOutcome := by
  rintro minor major bad rest s _ _ rfl rfl
  refine ⟨fun hr => ?_, fun hl hbad => ⟨fun hr => ?_, fun hr => ?_⟩⟩
  · rw [List.append_assoc] at hr
    rw [exec_eq_pump_opening, opening, pump_bootExchange (by decide) (Nat.le_refl 3) hr, readDone,
      versionMinorDone_reply, pump_bootExchange (by decide) (Nat.le_refl 3) rfl, readDone, versionMajorDone_reply,
      pump_ended]
    rfl
  · rw [exec_eq_pump_opening, opening, pump_bootExchange (by decide) hl hr, readDone, versionMinorDone_bad hbad,
      pump_ended]
    rfl
  · rw [List.append_assoc] at hr
    rw [exec_eq_pump_opening, opening, pump_bootExchange (by decide) (Nat.le_refl 3) hr, readDone,
      versionMinorDone_reply, pump_bootExchange (by decide) hl rfl, readDone, versionMajorDone_bad minor hbad,
      pump_ended]
    rfl

/-- Settles O39: the refusal, and for the address of a word the exchange. -/
theorem blLoadAddressOutcome : Obligations.BlLoadAddressOutcome := by
  refine fun addr s => ⟨fun hbad => ?_, fun w r rest hw hl hr => ?_⟩
  · have hno : ¬ loadAddressOk addr.toNat = true := by rw [loadAddressOk_iff]; omega
    exact congrArg Host.Outcome.next (if_neg hno)
  · have hok : loadAddressOk addr.toNat = true := by rw [loadAddressOk_iff]; omega
    have hword : wordAddress addr.toNat = w := by simp [wordAddress, ← hw]
    rw [exec_eq_pump_opening, opening, if_pos hok, hword, pump_bootExchange (by decide) hl hr, readDone,
      loadAddressDone_eq, pump_ended_ite, loadAck_eq]
    rfl

/-- Settles O40: one exchange between the two settings of the timeout. -/
theorem blWriteBlockOutcome : Obligations.BlWriteBlockOutcome := by
  intro d r rest s hl hr
  rw [exec_eq_pump_opening, opening, pump_writeBlockSend hl hr, readDone, writeBlockDone_eq,
    pump_ended_ite, ← writeAck_blockSent]
  rfl

/-- Settles O41: one exchange, whose reply is a block reply or is not. -/
theorem blReadBlockOutcome : Obligations.BlReadBlockOutcome := by
  refine fun rest s => ⟨fun d hr => ?_, fun r hl hbad hr => ?_⟩
  · rw [exec_eq_pump_opening, opening, pump_bootExchange (by decide) (by simp [blockReply]) hr, readDone,
      readBlockDone_blockReply, pump_ended, readAck_blockReply]
    rfl
  · rw [exec_eq_pump_opening, opening, pump_bootExchange (by decide) hl hr, readDone,
      readBlockDone_bad hbad, pump_ended, readAck_bad hbad]
    rfl

end Sys2Proof.Proofs

/-!
SUPPORT. The passes of BL_PROGRAM and BL_VERIFY (45_bootloader.md R326 to R328) as loops over the windows that are not
blank: one lemma for both says where a pass stands next, so that each pass is an induction over its windows.
-/

namespace Sys2Proof.Machine

open Sys2Proof.Claims

/-! ## The windows a pass has before it (R326) -/

/-- Under a boundary that R402 admits, the windows from base `b` on that are not blank are those of `ws`. -/
def WindowsAhead (cfg : Config) (img : Memory) (b : Nat) (ws : List Nat) : Prop :=
  cfg.bootBoundary.toNat % 16 = 0 ∧ cfg.bootBoundary.toNat ≤ 0x20000 ∧
    ∃ n, b + 16 * n = cfg.bootBoundary.toNat ∧ (List.range' b n 16).filter (fun b => !blank (window img b)) = ws

theorem windowsAhead_zero {cfg : Config} {img : Memory} (hmod : cfg.bootBoundary.toNat % 16 = 0)
    (hmax : cfg.bootBoundary.toNat ≤ 0x20000) :
    WindowsAhead cfg img 0 (dataWindows img cfg.bootBoundary.toNat) := by
  have hbases : List.range' 0 (cfg.bootBoundary.toNat / 16) 16 =
      (List.range (cfg.bootBoundary.toNat / 16)).map (16 * ·) :=
    List.ext_getElem (by simp) (by simp)
  exact ⟨hmod, hmax, cfg.bootBoundary.toNat / 16, by omega, by rw [hbases]; rfl⟩

theorem windowsFrom_eq {cfg : Config} {b n : Nat} (h : b + 16 * n = cfg.bootBoundary.toNat) :
    windowsFrom cfg b = n := by
  simp only [windowsFrom, Fixed.val]
  omega

/-- A pass stands at window `w`, and the request of its load address brought `r`. -/
def addressSent (w : Nat) (r : List Byte) (rest : List RxEvent) (s : State) : State :=
  atWindow w (readUpTo rest (asked (loadAddressRequest s.cfg.stk (wordAddress w)) 2 r s))

/-- The loop of a pass (R327, R328): it skips blank windows, loads the address of every other one and waits there, and
ends with `fin`. -/
structure PassLoop (loop : Nat → Nat → State → State) (p : PassPos) (k : Vector Byte 16 → ReadPos)
    (fin : State → State) : Prop where
  last : ∀ b s, loop 0 b s = passTest p fin b s
  skip : ∀ {n b s}, blank (window s.image b) = true → loop (n + 1) b s = loop n (b + 16) s
  load : ∀ {n b s}, blank (window s.image b) = false → loadAddressOk b = true →
    loop (n + 1) b s =
      bootExchange (loadAddressRequest s.cfg.stk (wordAddress b)) 2 (k (window s.image b)) (atWindow b s)

theorem passLoop_program (count : Nat) :
    PassLoop (programLoop count) (.program count) (.programLoad · count) (ended .ok (.count count)) where
  last _ _ := rfl
  skip hblank := if_pos hblank
  load hdata hok := (if_neg (by simp [hdata])).trans (if_pos hok)

theorem passLoop_verify : PassLoop verifyLoop .verify .verifyLoad verifyEnd where
  last _ _ := rfl
  skip hblank := if_pos hblank
  load hdata hok := (if_neg (by simp [hdata])).trans (if_pos hok)

section
variable {loop : Nat → Nat → State → State} {p : PassPos} {k : Vector Byte 16 → ReadPos} {fin : State → State}

/-- With no window before it that is not blank, a pass ends at the boundary. -/
theorem PassLoop.ends (hp : PassLoop loop p k fin) {b : Nat} {s : State} (hw : WindowsAhead s.cfg s.image b []) :
    loop (windowsFrom s.cfg b) b s = fin (atWindow s.cfg.bootBoundary.toNat s) := by
  obtain ⟨-, hmax, n, hn, hblank⟩ := hw
  rw [windowsFrom_eq hn]
  induction n generalizing b with
  | zero =>
    obtain rfl : b = s.cfg.bootBoundary.toNat := hn
    rw [hp.last, passTest_end le_rfl (by omega)]
    rfl
  | succ n ih =>
    rw [List.range'_succ, List.filter_cons] at hblank
    split at hblank
    case isTrue => cases hblank
    case isFalse hb =>
      rw [hp.skip (by simpa using hb)]
      exact ih (by omega) hblank

/-- Otherwise it loads the address of the first such window, and behind it the others are before it. -/
theorem PassLoop.loads (hp : PassLoop loop p k fin) {b w : Nat} {ws : List Nat} {s : State}
    (hw : WindowsAhead s.cfg s.image b (w :: ws)) :
    WindowsAhead s.cfg s.image (w + 16) ws ∧ w < 0x20000 ∧
      loop (windowsFrom s.cfg b) b s =
        bootExchange (loadAddressRequest s.cfg.stk (wordAddress w)) 2 (k (window s.image w)) (atWindow w s) := by
  obtain ⟨hmod, hmax, n, hn, hdata⟩ := hw
  rw [windowsFrom_eq hn]
  induction n generalizing b with
  | zero => cases hdata
  | succ n ih =>
    rw [List.range'_succ, List.filter_cons] at hdata
    split at hdata
    case isTrue hb =>
      obtain ⟨rfl, hws⟩ := List.cons.inj hdata
      refine ⟨⟨hmod, hmax, n, by omega, hws⟩, by omega, hp.load (by simpa using hb) ?_⟩
      rw [loadAddressOk_iff]
      omega
    case isFalse hb =>
      rw [hp.skip (by simpa using hb)]
      exact ih (by omega) hdata

/-- Where a pass stands is said by its base: the loop writes `seq_idx` before it reads it. -/
theorem PassLoop.of_atWindow (hp : PassLoop loop p k fin) {b : Nat} {ws : List Nat} {s : State}
    (hw : WindowsAhead s.cfg s.image b ws) (i : Nat) :
    loop (windowsFrom s.cfg b) b (atWindow i s) = loop (windowsFrom s.cfg b) b s := by
  cases ws with
  | nil =>
    rw [hp.ends hw]
    exact hp.ends (s := atWindow i s) hw
  | cons w ws =>
    obtain ⟨-, -, hload⟩ := hp.loads hw
    obtain ⟨-, -, hload'⟩ := hp.loads (s := atWindow i s) hw
    rw [hload]
    exact hload'

/-- The load address of the next window, whatever it reads. -/
theorem PassLoop.pump_load (hp : PassLoop loop p k fin) {b w : Nat} {ws : List Nat} {r : List Byte}
    {rest : List RxEvent} {s : State} (hw : WindowsAhead s.cfg s.image b (w :: ws)) (hl : r.length ≤ 2)
    (hr : s.rx = readEvents 2 r ++ rest) :
    w < 0x20000 ∧
      pump (loop (windowsFrom s.cfg b) b s) = pump (readDone (k (window s.image w)) r (addressSent w r rest s)) := by
  obtain ⟨-, hlt, hload⟩ := hp.loads hw
  refine ⟨hlt, ?_⟩
  rw [hload, pump_bootExchange (by decide) hl (by exact hr)]
  rfl

end

/-! ## One window of a pass -/

section
variable {w : Nat} {r : List Byte} {rest : List RxEvent}

theorem seqIdx_atWindow (hlt : w < 0x20000) (s : State) : (atWindow w s).seqIdx.toNat = w := by
  simp only [atWindow, BitVec.toNat_ofNat]
  omega

/-- The cursor after the load address of the window at which a pass stands. -/
theorem loadAck_addressSent (hlt : w < 0x20000) (s : State) :
    loadAck (wordAddress (addressSent w r rest s).seqIdx.toNat) r (addressSent w r rest s) =
      atWindow w (readUpTo rest (loadedWindow w r s)) := by
  rw [addressSent, seqIdx_atWindow hlt, ← loadAck_asked, loadAck_eq, loadAck_eq]
  rfl

theorem programLoadDone_ack (hlt : w < 0x20000) (win : Vector Byte 16) (count : Nat) (s : State) :
    programLoadDone win count ackReply (addressSent w ackReply rest s) =
      writeBlockSend win (.programWrite count) (atWindow w (readUpTo rest (loadedWindow w ackReply s))) := by
  rw [programLoadDone, loadAck_addressSent hlt, ack2_eq]
  rfl

theorem programLoadDone_failed (hlt : w < 0x20000) (hne : r ≠ ackReply) (win : Vector Byte 16) (count : Nat)
    (s : State) :
    programLoadDone win count r (addressSent w r rest s) =
      ended .blBadAck (.windowBase (BitVec.ofNat 32 w)) (atWindow w (readUpTo rest (loadedWindow w r s))) := by
  rw [programLoadDone, loadAck_addressSent hlt, ack2_eq, if_neg (by simpa using hne)]
  rfl

theorem programWriteDone_eq (hlt : w < 0x20000) (d : Vector Byte 16) (count : Nat) (s : State) :
    programWriteDone count r (readUpTo rest (blockSent d r (atWindow w s))) =
      if r = ackReply then programFrom (count + 1) (w + 16) (atWindow w (readUpTo rest (wroteBlock d r s)))
      else ended .blBadAck (.windowBase (BitVec.ofNat 32 w)) (atWindow w (readUpTo rest (wroteBlock d r s))) := by
  have hack : writeAck (readUpTo rest (blockSent d r (atWindow w s))) =
      atWindow w (readUpTo rest (wroteBlock d r s)) := by
    rw [← writeAck_blockSent]
    rfl
  simp only [programWriteDone, hack, ack2_eq, decide_eq_true_eq, seqIdx_atWindow hlt]
  rfl

theorem verifyLoadDone_ack (hlt : w < 0x20000) (win : Vector Byte 16) (s : State) :
    verifyLoadDone win ackReply (addressSent w ackReply rest s) =
      bootExchange (readPageRequest s.cfg.stk) 18 (.verifyRead win)
        (atWindow w (readUpTo rest (loadedWindow w ackReply s))) := by
  rw [verifyLoadDone, loadAck_addressSent hlt, ack2_eq]
  rfl

theorem verifyLoadDone_failed (hlt : w < 0x20000) (hne : r ≠ ackReply) (win : Vector Byte 16) (s : State) :
    verifyLoadDone win r (addressSent w r rest s) =
      verifyFrom (w + 16)
        (atWindow w (readUpTo rest (addMismatch (BitVec.ofNat 32 w) (loadedWindow w r s)))) := by
  rw [verifyLoadDone, loadAck_addressSent hlt, ack2_eq, if_neg (by simpa using hne), seqIdx_atWindow hlt]
  rfl

theorem verifyReadDone_blockReply (hlt : w < 0x20000) (win d : Vector Byte 16) (s : State) :
    verifyReadDone win (blockReply d)
        (atWindow w (readUpTo rest (asked (readPageRequest s.cfg.stk) 18 (blockReply d) s))) =
      verifyFrom (w + 16) (atWindow w (readUpTo rest
        (if d = win then readBlock d s else addMismatch (BitVec.ofNat 32 w) (readBlock d s)))) := by
  have hack : readAck (blockReply d) (atWindow w (readUpTo rest
      (asked (readPageRequest s.cfg.stk) 18 (blockReply d) s))) = atWindow w (readUpTo rest (readBlock d s)) := by
    rw [readAck_blockReply]
    rfl
  simp only [verifyReadDone, hack, readPageData_blockReply, Option.some.injEq, seqIdx_atWindow hlt]
  split <;> rfl

theorem verifyReadDone_bad (hlt : w < 0x20000) (hbad : ∀ d, r ≠ blockReply d) (win : Vector Byte 16) (s : State) :
    verifyReadDone win r (atWindow w (readUpTo rest (asked (readPageRequest s.cfg.stk) 18 r s))) =
      verifyFrom (w + 16)
        (atWindow w (readUpTo rest (addMismatch (BitVec.ofNat 32 w) (readBlockFailed r s)))) := by
  have hack : readAck r (atWindow w (readUpTo rest (asked (readPageRequest s.cfg.stk) 18 r s))) =
      atWindow w (readUpTo rest (readBlockFailed r s)) := by
    rw [readAck_bad hbad]
    rfl
  simp only [verifyReadDone, hack, readPageData_none hbad, reduceCtorEq, if_false, seqIdx_atWindow hlt]
  rfl

end

/-! ## The program pass (R327) -/

/-- One acknowledged window of the program pass. -/
def programmedWindow (w : Nat) (s : State) : State :=
  wroteBlock (window s.image w) ackReply (loadedWindow w ackReply s)

theorem programmed_cons (w : Nat) (ws : List Nat) (s : State) :
    programmed (w :: ws) s = programmed ws (programmedWindow w s) := rfl

theorem programmed_readUpTo (rest : List RxEvent) (ws : List Nat) (s : State) :
    programmed ws (readUpTo rest s) = readUpTo rest (programmed ws s) :=
  List.foldl_hom (readUpTo rest) fun _ _ => rfl

theorem programmed_cfg (ws : List Nat) (s : State) : (programmed ws s).cfg = s.cfg :=
  List.foldlRecOn ws _ (motive := fun t : State => t.cfg = s.cfg) rfl fun _ h _ _ => h

theorem programmed_image (ws : List Nat) (s : State) : (programmed ws s).image = s.image :=
  List.foldlRecOn ws _ (motive := fun t : State => t.image = s.image) rfl fun _ h _ _ => h

section
variable {b w count : Nat} {ws : List Nat} {r : List Byte} {rest : List RxEvent} {s : State}

/-- A window whose load address is refused ends the pass. -/
theorem pump_programFrom_loadFailed (hw : WindowsAhead s.cfg s.image b (w :: ws)) (hl : r.length ≤ 2)
    (hne : r ≠ ackReply) (hr : s.rx = readEvents 2 r ++ rest) :
    pump (programFrom count b s) =
      ended .blBadAck (.windowBase (BitVec.ofNat 32 w)) (atWindow w (readUpTo rest (loadedWindow w r s))) := by
  obtain ⟨hlt, hpump⟩ := (passLoop_program count).pump_load hw hl hr
  rw [programFrom, hpump, readDone, programLoadDone_failed hlt hne, pump_ended]

/-- A window whose load address is acknowledged is written, and the reply to the write says how the pass goes on. -/
theorem pump_programFrom_write (hw : WindowsAhead s.cfg s.image b (w :: ws)) (hl : r.length ≤ 2)
    (hr : s.rx = readEvents 2 ackReply ++ (readEvents 2 r ++ rest)) :
    pump (programFrom count b s) = pump (
      if r = ackReply then programFrom (count + 1) (w + 16)
        (atWindow w (readUpTo rest (wroteBlock (window s.image w) r (loadedWindow w ackReply s))))
      else ended .blBadAck (.windowBase (BitVec.ofNat 32 w))
        (atWindow w (readUpTo rest (wroteBlock (window s.image w) r (loadedWindow w ackReply s))))) := by
  obtain ⟨hlt, hpump⟩ := (passLoop_program count).pump_load hw (by decide) hr
  rw [programFrom, hpump, readDone, programLoadDone_ack hlt, pump_writeBlockSend hl rfl, readDone]
  exact congrArg pump
    (programWriteDone_eq hlt (window s.image w) count (readUpTo (readEvents 2 r ++ rest) (loadedWindow w ackReply s)))

/-- An acknowledged window leaves the pass behind it. -/
theorem pump_programFrom_window (hw : WindowsAhead s.cfg s.image b (w :: ws))
    (hr : s.rx = readEvents 2 ackReply ++ (readEvents 2 ackReply ++ rest)) :
    WindowsAhead s.cfg s.image (w + 16) ws ∧
      pump (programFrom count b s) =
        pump (programFrom (count + 1) (w + 16) (readUpTo rest (programmedWindow w s))) := by
  obtain ⟨hnext, -, -⟩ := (passLoop_program count).loads hw
  refine ⟨hnext, ?_⟩
  rw [pump_programFrom_write hw (by decide) hr, if_pos rfl]
  exact congrArg pump
    ((passLoop_program (count + 1)).of_atWindow (s := readUpTo rest (programmedWindow w s)) hnext w)

/-- Acknowledged windows are written one after another, and the pass stands before the others. -/
theorem pump_programFrom_acked {done : List Nat} (hw : WindowsAhead s.cfg s.image b (done ++ ws))
    (hr : s.rx = programAcks done ++ rest) :
    ∃ b', WindowsAhead s.cfg s.image b' ws ∧
      pump (programFrom count b s) =
        pump (programFrom (count + done.length) b' (readUpTo rest (programmed done s))) := by
  induction done generalizing b count s with
  | nil =>
    subst hr
    exact ⟨b, hw, rfl⟩
  | cons w done ih =>
    have hacks : s.rx = readEvents 2 ackReply ++ (readEvents 2 ackReply ++ (programAcks done ++ rest)) := by
      rw [hr]
      simp [programAcks]
    obtain ⟨hnext, hstep⟩ := pump_programFrom_window (count := count) hw hacks
    obtain ⟨b', hw', hrest⟩ := ih (count := count + 1)
      (s := readUpTo (programAcks done ++ rest) (programmedWindow w s)) hnext rfl
    refine ⟨b', hw', ?_⟩
    rw [hstep, hrest, programmed_readUpTo, programmed_cons, List.length_cons, Nat.add_right_comm]
    rfl

end

/-- BL_PROGRAM behind acknowledged windows: they are written, and the pass stands before the others. -/
theorem exec_blProgram_acked {done later : List Nat} {rest : List RxEvent} {s : State}
    (hmod : s.cfg.bootBoundary.toNat % 16 = 0) (hmax : s.cfg.bootBoundary.toNat ≤ 0x20000)
    (hws : done ++ later = dataWindows s.image s.cfg.bootBoundary.toNat) (hr : s.rx = programAcks done ++ rest) :
    ∃ b, WindowsAhead (programmed done s).cfg (programmed done s).image b later ∧
      exec .blProgram s = .next (pump (programFrom done.length b (readUpTo rest (programmed done s)))) := by
  have hw : WindowsAhead s.cfg s.image 0 (done ++ later) := hws ▸ windowsAhead_zero hmod hmax
  obtain ⟨b, hlater, hpump⟩ := pump_programFrom_acked (count := 0) hw hr
  refine ⟨b, by rwa [programmed_cfg, programmed_image], ?_⟩
  rw [exec_eq_pump_opening, ← Nat.zero_add done.length, ← hpump]
  exact congrArg (Host.Outcome.next ∘ pump) ((passLoop_program 0).of_atWindow hw 0)

/-! ## The verify pass (R328) -/

/-- One answered window of the verify pass: its exchanges, and its base on the list if it fails. -/
def verifiedWindow (w : Nat) (reply : WindowReply) (s : State) : State :=
  if reply.fails (window s.image w) then addMismatch (BitVec.ofNat 32 w) (reply.after w s) else reply.after w s

theorem verifiedWindow_cfg (w : Nat) (reply : WindowReply) (s : State) : (verifiedWindow w reply s).cfg = s.cfg := by
  cases reply <;> simp only [verifiedWindow] <;> split <;> rfl

theorem verifiedWindow_image (w : Nat) (reply : WindowReply) (s : State) :
    (verifiedWindow w reply s).image = s.image := by
  cases reply <;> simp only [verifiedWindow] <;> split <;> rfl

theorem verifiedWindow_readUpTo (w : Nat) (reply : WindowReply) (rest : List RxEvent) (s : State) :
    verifiedWindow w reply (readUpTo rest s) = readUpTo rest (verifiedWindow w reply s) := by
  have himage : (readUpTo rest s).image = s.image := rfl
  cases reply <;> simp only [verifiedWindow, himage] <;> split <;> rfl

/-- Every one of these windows answered. -/
def verified (replies : List (Nat × WindowReply)) (s : State) : State :=
  replies.foldl (fun t p => verifiedWindow p.1 p.2 t) s

theorem verified_cons (p : Nat × WindowReply) (replies : List (Nat × WindowReply)) (s : State) :
    verified (p :: replies) s = verified replies (verifiedWindow p.1 p.2 s) := rfl

theorem verified_readUpTo (rest : List RxEvent) (replies : List (Nat × WindowReply)) (s : State) :
    verified replies (readUpTo rest s) = readUpTo rest (verified replies s) :=
  List.foldl_hom (readUpTo rest) fun s p => verifiedWindow_readUpTo p.1 p.2 rest s

/-- The exchanges of a window, and the pass goes on at it. -/
theorem pump_verifyFrom_exchanges {b w : Nat} {ws : List Nat} {reply : WindowReply} {rest : List RxEvent} {s : State}
    (hw : WindowsAhead s.cfg s.image b (w :: ws)) (hf : reply.fits) (hr : s.rx = reply.events ++ rest) :
    pump (verifyFrom b s) =
      pump (verifyFrom (w + 16) (atWindow w (readUpTo rest (verifiedWindow w reply s)))) := by
  cases reply with
  | loadFailed r =>
    obtain ⟨hl, hne⟩ := hf
    obtain ⟨hlt, hpump⟩ := passLoop_verify.pump_load hw hl hr
    rw [verifyFrom, hpump, readDone, verifyLoadDone_failed hlt hne]
    rfl
  | readFailed r =>
    obtain ⟨hl, hbad⟩ := hf
    obtain ⟨hlt, hpump⟩ := passLoop_verify.pump_load hw (by decide) (hr.trans (List.append_assoc ..))
    rw [verifyFrom, hpump, readDone, verifyLoadDone_ack hlt, pump_bootExchange (by decide) hl rfl, readDone]
    exact congrArg pump (verifyReadDone_bad hlt hbad (window s.image w) (loadedWindow w ackReply s))
  | readBack d =>
    obtain ⟨hlt, hpump⟩ := passLoop_verify.pump_load hw (by decide) (hr.trans (List.append_assoc ..))
    have hafter : verifiedWindow w (.readBack d) s =
        if d = window s.image w then readBlock d (loadedWindow w ackReply s)
        else addMismatch (BitVec.ofNat 32 w) (readBlock d (loadedWindow w ackReply s)) := by
      by_cases h : d = window s.image w <;> simp [verifiedWindow, WindowReply.fails, WindowReply.after, h]
    rw [verifyFrom, hpump, readDone, verifyLoadDone_ack hlt, pump_bootExchange (by decide) (by simp [blockReply]) rfl,
      readDone, hafter]
    exact congrArg pump (verifyReadDone_blockReply hlt (window s.image w) d (loadedWindow w ackReply s))

/-- An answered window leaves the pass behind it. -/
theorem pump_verifyFrom_window {b w : Nat} {ws : List Nat} {reply : WindowReply} {rest : List RxEvent} {s : State}
    (hw : WindowsAhead s.cfg s.image b (w :: ws)) (hf : reply.fits) (hr : s.rx = reply.events ++ rest) :
    WindowsAhead (verifiedWindow w reply s).cfg (verifiedWindow w reply s).image (w + 16) ws ∧
      pump (verifyFrom b s) = pump (verifyFrom (w + 16) (readUpTo rest (verifiedWindow w reply s))) := by
  obtain ⟨hnext, -, -⟩ := passLoop_verify.loads hw
  rw [← verifiedWindow_cfg w reply s, ← verifiedWindow_image w reply s] at hnext
  refine ⟨hnext, ?_⟩
  rw [pump_verifyFrom_exchanges hw hf hr]
  exact congrArg pump (passLoop_verify.of_atWindow (s := readUpTo rest (verifiedWindow w reply s)) hnext w)

/-- The verify pass from base `b` on: every window is answered, and then the pass ends. -/
theorem pump_verifyFrom {b : Nat} {replies : List (Nat × WindowReply)} {rest : List RxEvent} {s : State}
    (hw : WindowsAhead s.cfg s.image b (replies.map Prod.fst)) (hf : ∀ p ∈ replies, p.2.fits)
    (hr : s.rx = replies.flatMap (fun p => p.2.events) ++ rest) :
    pump (verifyFrom b s) =
      pump (verifyEnd (atWindow s.cfg.bootBoundary.toNat (readUpTo rest (verified replies s)))) := by
  induction replies generalizing b s with
  | nil =>
    subst hr
    exact congrArg pump (passLoop_verify.ends hw)
  | cons p replies ih =>
    obtain ⟨hp, hreplies⟩ := List.forall_mem_cons.1 hf
    rw [List.flatMap_cons, List.append_assoc] at hr
    obtain ⟨hnext, hstep⟩ := pump_verifyFrom_window hw hp hr
    have hrest := ih (s := readUpTo (replies.flatMap (fun p => p.2.events) ++ rest) (verifiedWindow p.1 p.2 s))
      hnext hreplies rfl
    rw [hstep, hrest, verified_readUpTo, verified_cons, ← verifiedWindow_cfg p.1 p.2 s]
    rfl

/-- The list of failing windows holds `l`. -/
def withMismatch (l : List Word32) (s : State) : State := { s with seqMismatch := l }

/-- The bases of the windows that fail (R328). -/
def failingBases (img : Memory) (replies : List (Nat × WindowReply)) : List Word32 :=
  (replies.filter fun p => p.2.fails (window img p.1)).map fun p => BitVec.ofNat 32 p.1

/-- The exchanges of a window neither read nor write the list of failing windows. -/
theorem after_withMismatch (w : Nat) (reply : WindowReply) (l : List Word32) (s : State) :
    reply.after w (withMismatch l s) = withMismatch l (reply.after w s) := by
  cases reply <;> rfl

theorem verifiedWindow_withMismatch (w : Nat) (reply : WindowReply) (l : List Word32) (s : State) :
    verifiedWindow w reply (withMismatch l s) =
      withMismatch (l ++ failingBases s.image [(w, reply)]) (reply.after w s) := by
  have himage : (withMismatch l s).image = s.image := rfl
  rw [verifiedWindow, himage, after_withMismatch]
  cases hfail : reply.fails (window s.image w) <;> simp [failingBases, hfail, addMismatch, withMismatch]

theorem after_image (w : Nat) (reply : WindowReply) (s : State) : (reply.after w s).image = s.image := by
  cases reply <;> rfl

/-- The pass collects exactly the bases that fail, next to what its exchanges leave. -/
theorem verified_withMismatch (replies : List (Nat × WindowReply)) (l : List Word32) (s : State) :
    verified replies (withMismatch l s) =
      withMismatch (l ++ failingBases s.image replies) (replies.foldl (fun t p => p.2.after p.1 t) s) := by
  induction replies generalizing l s with
  | nil => simp [failingBases, verified]
  | cons p replies ih =>
    rw [verified_cons, verifiedWindow_withMismatch, ih, List.foldl_cons, after_image, List.append_assoc, failingBases,
      failingBases, ← List.map_append, ← List.filter_append]
    rfl

theorem foldl_after_withMismatch (replies : List (Nat × WindowReply)) (l : List Word32) (s : State) :
    replies.foldl (fun t p => p.2.after p.1 t) (withMismatch l s) =
      withMismatch l (replies.foldl (fun t p => p.2.after p.1 t) s) :=
  List.foldl_hom (withMismatch l) fun s p => after_withMismatch p.1 p.2 l s

theorem verifyEnd_eq (s : State) :
    verifyEnd s =
      (if s.seqMismatch = [] then ended .ok (.count 0) else ended .verifyMismatch (.windows s.seqMismatch)) s := by
  rw [verifyEnd]
  split <;> rfl

end Sys2Proof.Machine

/-!
CLAIMS. The statements on the passes (45_bootloader.md R326 to R331).
-/

namespace Sys2Proof.Proofs

open Sys2Proof.Machine Sys2Proof.Claims

/-- Settles O44: behind its last acknowledged window the pass has none before it, and ends at the boundary. -/
theorem blProgramWritesAll : Obligations.BlProgramWritesAll := by
  rintro ws rest s hmod hmax hws hr
  obtain ⟨b, hw, hexec⟩ := exec_blProgram_acked hmod hmax ((List.append_nil ws).trans hws) hr
  have hend := (passLoop_program ws.length).ends (s := readUpTo rest (programmed ws s)) hw
  rw [hexec, programFrom, hend, pump_ended, ← programmed_cfg ws s]
  rfl

/-- Settles O45: behind the acknowledged windows the pass stands before the failing one, at either exchange. -/
theorem blProgramAborts : Obligations.BlProgramAborts := by
  refine fun done later b r rest s hmod hmax hws hl hne => ⟨fun hr => ?_, fun hr => ?_⟩
  · rw [List.append_assoc] at hr
    obtain ⟨b', hw, hexec⟩ := exec_blProgram_acked hmod hmax hws hr
    rw [hexec, pump_programFrom_loadFailed (s := readUpTo (readEvents 2 r ++ rest) (programmed done s)) hw hl hne rfl]
    rfl
  · rw [List.append_assoc, List.append_assoc] at hr
    obtain ⟨b', hw, hexec⟩ := exec_blProgram_acked hmod hmax hws hr
    rw [hexec, pump_programFrom_write (s := readUpTo (readEvents 2 ackReply ++ (readEvents 2 r ++ rest))
      (programmed done s)) hw hl rfl, if_neg hne, pump_ended, ← programmed_image done s]
    rfl

/-- Settles O46: the pass goes through every window's answer, and its list is the bases that fail. -/
theorem blVerifyOutcome : Obligations.BlVerifyOutcome := by
  intro replies bad rest s hmod hmax hws hf hr hbad
  obtain rfl : bad = failingBases s.image replies := hbad
  have hw : WindowsAhead s.cfg s.image 0 (replies.map Prod.fst) := hws ▸ windowsAhead_zero hmod hmax
  have hstart : verifyFrom 0 { s with seqIdx := 0, seqMismatch := [] } = verifyFrom 0 (withMismatch [] s) :=
    passLoop_verify.of_atWindow (s := withMismatch [] s) hw 0
  have hstate : replies.foldl (fun t p => p.2.after p.1 t) { s with seqMismatch := failingBases s.image replies } =
      withMismatch (failingBases s.image replies) (replies.foldl (fun t p => p.2.after p.1 t) s) :=
    foldl_after_withMismatch ..
  have hpump := pump_verifyFrom (s := withMismatch [] s) hw hf hr
  rw [exec_eq_pump_opening, opening, hstart, hpump, verified_withMismatch, List.nil_append, verifyEnd_eq,
    pump_ended_ite, hstate]
  rfl

end Sys2Proof.Proofs

/-!
SUPPORT. The end of a piece of work as 60_exceptions.md has it: one result, the last event (R370), and no trap beside it
(R374).
-/

namespace Sys2Proof.Machine

/-- Work up to a result or a wait reports as R370 and R371 want it: what it did before was quiet, so the result of its
end is the only one. -/
theorem Advances.reports {op : Byte} {s t : State} (h : Advances op s t) : Reports op s t := by
  obtain ⟨u, ⟨evs, hlog, hquiet, -, -⟩, ⟨c, d, hc, rfl⟩ | ⟨p, hp, rfl⟩⟩ := h
  · have hend : (result c d u).portLog = s.portLog ++ (evs ++ [.out (.result c d)]) := by
      rw [result_portLog, hlog, List.append_assoc]
    exact ⟨_, hend, .inl ⟨rfl, evs, c, d, rfl, hquiet, hc⟩⟩
  · exact ⟨evs, hlog, .inr ⟨p, rfl, hp, hquiet⟩⟩

/-- An operation answers a next state, an error being its result (R374). -/
theorem exec_answersNext (i : Instr) (s : State) : ∃ t, exec i s = .next t :=
  ⟨_, exec_eq_pump_opening i s⟩

/-- So does a step, in IDLE for whatever `HOST_IN` offers, an illegal opcode included (R122). -/
theorem step_answersNext (s : State) : ∃ t, step s = .next t := by
  cases hs : s.opState with
  | busy p => exact ⟨_, step_busy hs⟩
  | idle =>
    cases hd : decode s.hostIn with
    | instr i rest => rw [step_instr hs hd]; exact exec_answersNext i _
    | illegal op rest => exact ⟨_, step_illegal hs hd⟩
    | incomplete => exact ⟨s, step_incomplete hs hd⟩

end Sys2Proof.Machine

/-!
CLAIMS. The statements on results and errors (60_exceptions.md R370, R371, R374).
-/

namespace Sys2Proof.Proofs

open Sys2Proof.Machine

/-- Settles O58: an operation that is taken, and a later step of it, is its own work up to a result or a wait. -/
theorem oneResultPerOperation : Obligations.OneResultPerOperation := by
  refine ⟨fun i s t h => (advances_exec h).reports, fun p s t hp h => ?_⟩
  obtain rfl : resume s = t := Host.Outcome.next.inj ((step_busy hp).symm.trans h)
  exact (advances_resume hp).reports

/-- Settles O53. -/
theorem everyStepAnswersNext : Obligations.EveryStepAnswersNext :=
  fun s i => ⟨step_answersNext s, exec_answersNext i s⟩

end Sys2Proof.Proofs

/-!
SUPPORT. What a wait does while the environment has no event for it (70_reset_and_hazards.md R405): it takes none, and
invents none.
-/

namespace Sys2Proof.Machine

theorem pump_of_rx_nil {s : State} (h : s.rx = []) : pump s = s := by
  rw [pump, h, drain_nil]

end Sys2Proof.Machine

/-!
CLAIMS. The statement on waiting (70_reset_and_hazards.md R405; 60_exceptions.md R385).
-/

namespace Sys2Proof.Proofs

open Sys2Proof.Machine

/-- Settles O52: the step of a waiting operation is what it does with the events there are. -/
theorem waitForEvent : Obligations.WaitForEvent := fun s p hbusy hwaits hrx =>
  calc step s = .next (pump s) := step_awaits hbusy hwaits
    _ = .next s := by rw [pump_of_rx_nil hrx]

end Sys2Proof.Proofs
